-- ==== Sys2Proof/Word.lean ====
section
/-! DEFINITION. The bit patterns of the block: a host register (32 bits, R8) and a byte on the wire (8 bits, R7), with the one
widening the spec uses between them. -/

namespace Sys2Proof

/-- One host register: `P_REG_BITS = 32` (R8), an unsigned bit pattern (R12). -/
abbrev Word := BitVec 32

/-- One byte on the wire, or one cell of the attached memory (R7, R12). -/
abbrev Byte := BitVec 8

/-- `zext_32` of a byte (R12, R92). -/
def Byte.zext32 (b : Byte) : Word := b.setWidth 32

end Sys2Proof
end

