-- ==== Sys2Proof/Config.lean ====
section
/-! DEFINITION. What an implementation fixes: the spec's fixed parameters (R5 to R7, R11), the parameters it leaves open (R10,
R11), carried by `State` as plain data, and the free values, which have no body, so that no proof can see what they are. -/

namespace Sys2Proof

/-- `P_ADDR_MAX = 131071 = 0x1FFFF` (R5). -/
def Config.addrMax : Nat := 0x1FFFF

/-- `P_DATA_MAX = 255` (R7). -/
def Config.dataMax : Nat := 0xFF

/-- `P_READ_FILL`, the byte on MOSI while the response byte is received (R11, R123). -/
def Config.readFill : Byte := 0x00#8

/-- The size in bytes of the register window (R20). -/
def Config.windowBytes : Nat := 0x20

/-- The parameters of an implementation (R10, R11). No step changes them. DESIGN CHOICE (log 1): the spec gives no number type and, for
`P_T_CS`, no unit; the model takes whole Hz, whole microseconds, and for `P_T_CS` a natural number without a unit. -/
structure Params where
  /-- `P_F_CLK`, the system clock in Hz; it sizes `SETTLE_CNT` only (R11, R41, D35). -/
  fClk : Nat
  /-- `P_SCK_HZ`, the SPI clock in Hz; no rule depends on it (R11, D16). -/
  sckHz : Nat
  /-- `P_T_CS`, the minimum time per chip-select level; no rule depends on it (R11, D17). -/
  tCs : Nat
  /-- `P_BASE`, the host address of the register window (R11, R20, D34). -/
  base : Nat
  /-- `P_FAULTS`: whether the physical layer may report a transport fault (R11, R182, D20). -/
  faults : Bool
  /-- `P_SETTLE_US`, in microseconds (R10, D18). -/
  settleUs : Nat
  deriving DecidableEq, Repr

/-- What the spec asks of the parameters: `P_SETTLE_US >= 50` (R10, R214) and positive frequencies (D16, D35). -/
def Params.ok (p : Params) : Bool := decide (50 ≤ p.settleUs) && decide (0 < p.fClk) && decide (0 < p.sckHz)

/-- The spec's defaults, `P_SETTLE_US = 50` (R10) and `P_FAULTS = true` (R11). DESIGN CHOICE (log 1): the spec gives no
default for the other four; `P_F_CLK = 48 MHz` is the clock of the example of R117. -/
def Params.initial : Params :=
  { fClk := 48000000, sckHz := 1000000, tCs := 0, base := 0, faults := true, settleUs := 50 }

/-- `draw_miso(i)` of R13: the byte the attached device returns in exchange `i` of run `run`, under no law (log 2). -/
opaque Config.drawMiso (run i : Nat) : Byte

/-- `draw_fault(i)` of R13: whether exchange `i` of run `run` faults, under no law (log 2). -/
opaque Config.drawFault (run i : Nat) : Bool

/-- How many bits of a faulted exchange reached the wire: any number from 0 to 7 (I11, R114; log 2). -/
opaque Config.drawFaultBits (run i : Nat) : Fin 8

/-- MISO of exchange `j` of the `k`-th frame that the environment drives at the device's pins, where the device does not
define it (I1; log 5). -/
opaque Config.frameMiso (k j : Nat) : Byte

/-- The power-up contents of cell `a` of the attached memory: any value (R66, I2, N18; log 3). -/
opaque Config.powerUpCell (a : Nat) : Byte

/-- A cell of a device in `RESP = Unknown`, at the `t`-th moment of it: unconstrained (R71; log 4). -/
opaque Config.unknownCell (t a : Nat) : Byte

/-- Whether the mode register of a device in `RESP = Unknown` selects Byte mode, at the `t`-th moment of it: unconstrained
(R71; log 4). -/
opaque Config.unknownModeIsByte (t : Nat) : Bool

end Sys2Proof
end

