-- ==== Sys2Proof/Syntax.lean ====
section
/-! DEFINITION. The instructions of the two levels of R80: the four host command words of format HOST_CMD (R81, R82) and the
seven SPI frames of the wire level (R84 to R88, R160). One constructor per row of the opcode table. -/

namespace Sys2Proof

/-- One instruction. A host command carries `CMD[31:2]`, which is ignored on write (R83), so that no bit of the word is lost;
its operands are the registers ADDR and WDATA, read at accept (R81). A wire frame carries its fields. -/
inductive Instr where
  /-- `OP = 0b00`, the illegal command (R142). -/
  | rsvd (rsv : BitVec 30)
  /-- `OP = 0b01`, initialize the attached device (R143). -/
  | init (rsv : BitVec 30)
  /-- `OP = 0b10`, write one byte (R144). -/
  | write (rsv : BitVec 30)
  /-- `OP = 0b11`, read one byte (R145). -/
  | read (rsv : BitVec 30)
  /-- `0x01`, write-mode-register, format F_MODE (R85, R161): `mode` is MODE_BYTE[7:6], `rsv` is MODE_BYTE[5:0]. -/
  | wrmr (mode : BitVec 2) (rsv : BitVec 6)
  /-- `0x02`, write, format F_ADDR_DATA (R86, R162). -/
  | wireWrite (a : BitVec 24) (d : Byte)
  /-- `0x03`, read, format F_ADDR_RX (R87, R163): `fill` is the MOSI byte of the response exchange. -/
  | wireRead (a : BitVec 24) (fill : Byte)
  /-- `0x05`, read-mode-register, format F_OPCODE (R88, R164): only byte 0 is known, `rest` is the rest of the frame. -/
  | rdmr (rest : List Byte)
  /-- `0x3B`, enable-dual-IO, format F_OPCODE (R165). -/
  | edio (rest : List Byte)
  /-- `0x38`, enable-quad-IO, format F_OPCODE (R166). -/
  | eqio (rest : List Byte)
  /-- `0xFF`, reset-IO, format F_OPCODE (R167). -/
  | rstio (rest : List Byte)
  deriving DecidableEq, Repr

/-- The two levels of R80. -/
inductive Level where
  | host
  | wire
  deriving DecidableEq, Repr

/-- The level of an instruction, as the opcode table gives it. -/
def Instr.level : Instr → Level
  | .rsvd _ => .host
  | .init _ => .host
  | .write _ => .host
  | .read _ => .host
  | .wrmr _ _ => .wire
  | .wireWrite _ _ => .wire
  | .wireRead _ _ => .wire
  | .rdmr _ => .wire
  | .edio _ => .wire
  | .eqio _ => .wire
  | .rstio _ => .wire

end Sys2Proof
end

