-- ==== Sys2Proof/Machine/State.lean ====
section
/-! DEFINITION. The state of the three agents of R15, as plain data: the block (the controller and its host registers), the
attached device (the reference device of R66), and the environment (what the outside has queued for them); the reasons a step
can stop; and the state right after reset (R210). -/

namespace Sys2Proof.Machine

/-- The actions a program is made of (R110). -/
inductive Action where
  /-- `A_OE`: enable the CS pad's output driver (R111). -/
  | oe
  /-- `A_CS(l)`: write the CS level (R112). -/
  | cs (level : Bool)
  /-- `A_XFER(tx, cap)`: one full-duplex byte exchange (R113). -/
  | xfer (tx : Byte) (cap : Bool)
  /-- `A_SETTLE`: idle for at least `P_SETTLE_US` microseconds (R117). -/
  | settle
  deriving DecidableEq, Repr

/-- The events of the trace (R14). -/
inductive Event where
  | oe
  | cs (level : Bool)
  | x (tx rx : Byte)
  | xf (tx : Byte)
  | settle
  deriving DecidableEq, Repr

/-- `CUR_OP` (R38). -/
inductive CurOp where
  | none
  | init
  | write
  | read
  deriving DecidableEq, Repr

/-- The fields of STATUS (R25 to R34), stored once; the register as a word is `Status.word`. Bits 31:10 are reserved, read 0
and hold nothing (R35). -/
structure Status where
  busy : Bool
  init : Bool
  errAddr : Bool
  errValue : Bool
  errNoinit : Bool
  errXport : Bool
  errCmd : Bool
  errBusy : Bool
  csLevel : Bool
  csOe : Bool
  deriving DecidableEq, Repr

/-- The byte serializer with the levels of its two output pads (R40). -/
structure Serializer where
  txSh : Byte
  rxSh : Byte
  bits : Nat
  sck : Bool
  mosi : Bool
  deriving DecidableEq, Repr

/-- The block: its host registers (R22 to R34) and its internal state (R37 to R41), the index of the next exchange since reset
(R113) and the trace of the run (R14). CMD holds no state (R21). -/
structure Block where
  addr : Word
  wdata : Word
  rdata : Word
  status : Status
  seq : List Action
  seqPc : Nat
  curOp : CurOp
  capture : Byte
  ser : Serializer
  settleCnt : Nat
  xferIdx : Nat
  trace : List Event
  deriving DecidableEq, Repr

/-- `MODE` of the reference device (R66). -/
inductive Mode where
  | byte
  | other
  deriving DecidableEq, Repr

/-- `RESP` of the reference device (R66). -/
inductive Resp where
  | asleep
  | responsive
  | unknown
  deriving DecidableEq, Repr

/-- The attached memory `MEM[0..131071]` (R51, R66), as the cells written since power-up: pairs of address and byte, addresses
strictly rising. A cell that is not listed still holds its power-up contents. -/
abbrev Memory := List Host.Cell

/-- The reference device (R66): memory, mode register, responsiveness, and the frame state (the bytes received since CS last fell
and the bits of the current byte). `tick` is the model's own: it numbers the moments of `RESP = Unknown`, in which `mem` and
`mode` hold nothing and are read through `Device.cell` and `Device.modeIsByte` only (log 4). -/
structure Device where
  mem : Memory
  mode : Mode
  resp : Resp
  bytes : List Byte
  bitPos : Nat
  shift : Byte
  tick : Nat
  deriving DecidableEq, Repr

/-- What the physical layer answers to one exchange: the draws `draw_fault` and `draw_miso` of R13, and how many bits reached the
wire if it faults (I11). -/
structure PhyDraw where
  fault : Bool
  bits : Fin 8
  miso : Byte
  deriving DecidableEq, Repr

/-- One access of the host at a host address, `width` bytes wide (R13, R56). -/
inductive HostOp where
  | read (addr width : Nat)
  | write (addr width : Nat) (data : Word)
  deriving DecidableEq, Repr

/-- Whose move is next: the agents of R15, the inputs of the block and the pins of the device. -/
inductive Turn where
  /-- The host performs one register access (R193). -/
  | host (op : HostOp)
  /-- The host polls STATUS until BUSY = 0 (the pseudo-instruction WAIT of R97). -/
  | wait
  /-- A frame is driven at the device's pins from CS falling to CS rising, not by the block (R84; log 5). -/
  | frame (bytes : List Byte)
  /-- The controller performs one action (R120). -/
  | controller
  /-- One period of the system clock, which only `A_SETTLE` counts (R41). -/
  | clock
  /-- The reset input is asserted and released (R210), `bits` bits into the exchange about to be performed, if it is one. -/
  | reset (bits : Nat)
  deriving DecidableEq, Repr

/-- The environment: the moves queued for the agents, the physical layer's coming answers, the number of the run (R211), what the
host last read, how many frames were driven at the device's pins from outside, and the bytes the device answered to the last of
them. All of it is the model's own (log 2, 5, 7). -/
structure Env where
  turns : List Turn
  phy : List PhyDraw
  runNo : Nat
  hostRd : Word
  frameNo : Nat
  frameRx : List Byte
  deriving DecidableEq, Repr

/-- The whole machine: the parameters, which no step changes, and the agents. -/
structure State where
  params : Params
  blk : Block
  dev : Device
  env : Env
  deriving DecidableEq, Repr

/-- Why the machine stops. -/
inductive Fault where
  /-- Raised by a host access that reaches the register window, wherever it begins, and is not 32 bits wide at an offset of it that
  is a multiple of 4: outside the block's contract, "the host agent is stuck" (R56, I13). Safe. -/
  | hostAccessOutsideContract
  /-- Raised by an `A_XFER` while CS is high or the CS pad undriven: "the block has no behaviour for a violation, because none
  can arise" (R115). No run reaches it. Safe. -/
  | xferOutsideFrame
  /-- Raised by an `A_SETTLE` while the CS latch is low, against its precondition (R117). No run reaches it. Safe. -/
  | settleInsideFrame
  deriving DecidableEq, Repr

/-- Why the model gives no meaning. -/
inductive Refusal where
  /-- Raised by an arm of `exec` whose instruction has no meaning yet. Safe. -/
  | notModelled (mnemonic : String)
  deriving DecidableEq, Repr

/-- STATUS after reset: 0x00000100 (R20, R210). -/
def Status.reset : Status :=
  { busy := false, init := false, errAddr := false, errValue := false, errNoinit := false, errXport := false,
    errCmd := false, errBusy := false, csLevel := true, csOe := false }

/-- The serializer after reset (R40, R210). -/
def Serializer.reset : Serializer := { txSh := 0x00#8, rxSh := 0x00#8, bits := 0, sck := false, mosi := false }

/-- The block after reset (R210). -/
def Block.reset : Block :=
  { addr := 0x00000000#32, wdata := 0x00000000#32, rdata := 0x00000000#32, status := Status.reset, seq := [], seqPc := 0,
    curOp := .none, capture := 0x00#8, ser := Serializer.reset, settleCnt := 0, xferIdx := 0, trace := [] }

/-- The reference device at power-up (R66): asleep, its mode `Other`, every cell at its power-up contents. DESIGN CHOICE (log 8):
the frame state starts empty. -/
def Device.powerUp : Device :=
  { mem := [], mode := .other, resp := .asleep, bytes := [], bitPos := 0, shift := 0x00#8, tick := 0 }

/-- The environment at power-up: nothing queued. DESIGN CHOICE (log 7): the fields are the model's own. -/
def Env.initial : Env := { turns := [], phy := [], runNo := 0, hostRd := 0x00000000#32, frameNo := 0, frameRx := [] }

/-- The machine right after the power-on reset (R210, R66). -/
def State.reset : State :=
  { params := Params.initial, blk := Block.reset, dev := Device.powerUp, env := Env.initial }

end Sys2Proof.Machine
end

