-- ==== Sys2Proof/Machine/Flags.lean ====
section
/-! DEFINITION. STATUS: the register as a word (R25 to R35), the error causes and their codes (R180), setting and clearing the
error flags (R45), and the validation predicates (R141). -/

namespace Sys2Proof.Machine

/-- The weight of a flag at bit `k` of a 32-bit register. -/
def flagBit (b : Bool) (k : Nat) : Word := if b then 1#32 <<< k else 0#32

/-- STATUS as the host reads it: each flag at its bit, `STATUS[31:10]` 0 (the table of section 2 of 10_state.md, R35). -/
def Status.word (st : Status) : Word :=
  flagBit st.busy 0 ||| flagBit st.init 1 ||| flagBit st.errAddr 2 ||| flagBit st.errValue 3 ||| flagBit st.errNoinit 4 |||
    flagBit st.errXport 5 ||| flagBit st.errCmd 6 ||| flagBit st.errBusy 7 ||| flagBit st.csLevel 8 ||| flagBit st.csOe 9

/-- The error causes (R180). -/
inductive Err where
  | addr
  | value
  | noinit
  | xport
  | cmd
  | busy
  deriving DecidableEq, Repr

/-- The cause code: the bit index of the flag in STATUS (R45, R180). -/
def Err.code : Err → Nat
  | .addr => 2
  | .value => 3
  | .noinit => 4
  | .xport => 5
  | .cmd => 6
  | .busy => 7

/-- The flag of a cause. -/
def Status.flag (st : Status) : Err → Bool
  | .addr => st.errAddr
  | .value => st.errValue
  | .noinit => st.errNoinit
  | .xport => st.errXport
  | .cmd => st.errCmd
  | .busy => st.errBusy

/-- `STATUS.ERR_X <- 1` for one cause, no other flag changed. -/
def Status.raise (st : Status) : Err → Status
  | .addr => { st with errAddr := true }
  | .value => { st with errValue := true }
  | .noinit => { st with errNoinit := true }
  | .xport => { st with errXport := true }
  | .cmd => { st with errCmd := true }
  | .busy => { st with errBusy := true }

/-- `STATUS.ERR_X <- 1` where the check of the cause failed; the flag stays where it held. -/
def Status.raiseUnless (st : Status) (ok : Bool) (e : Err) : Status := if ok then st else st.raise e

/-- `STATUS[7:2] <- 0b000000`, at every accept (R45, R140). -/
def Status.clearErrors (st : Status) : Status :=
  { st with errAddr := false, errValue := false, errNoinit := false, errXport := false, errCmd := false, errBusy := false }

/-- `addr_ok` (R141): an unsigned comparison at 32 bits. -/
def Block.addrOk (b : Block) : Bool := b.addr.ule (BitVec.ofNat 32 Config.addrMax)

/-- `value_ok` (R141). -/
def Block.valueOk (b : Block) : Bool := b.wdata.ule (BitVec.ofNat 32 Config.dataMax)

/-- `init_ok` (R141). -/
def Block.initOk (b : Block) : Bool := b.status.init

end Sys2Proof.Machine
end

