-- ==== Sys2Proof/Machine/Memory.lean ====
section
/-! DEFINITION. The attached memory (R51): the read and the write of one cell, and the canonical form. -/

namespace Sys2Proof.Machine

/-- What the list holds at an address: `none` is a cell that nothing has written since power-up. -/
def Memory.read? : Memory → Nat → Option Byte
  | [], _ => none
  | (k, v) :: m, a => if k = a then some v else Memory.read? m a

/-- `MemWrite(a, 1, v)` (R13). -/
def Memory.write : Memory → Nat → Byte → Memory
  | [], a, v => [(a, v)]
  | (k, w) :: m, a, v =>
    if a < k then (a, v) :: (k, w) :: m
    else if a = k then (a, v) :: m
    else (k, w) :: Memory.write m a v

/-- Addresses rise strictly, from `lo` on, and none is above `P_ADDR_MAX` (R51). -/
def Memory.risingFrom : Nat → Memory → Bool
  | _, [] => true
  | lo, (k, _) :: m => decide (lo ≤ k) && decide (k ≤ Config.addrMax) && Memory.risingFrom (k + 1) m

/-- The canonical form. An unlisted address reads as "not written", which no entry is, so rising addresses are all it takes. -/
def Memory.wf (m : Memory) : Bool := Memory.risingFrom 0 m

end Sys2Proof.Machine
end

