-- ==== Sys2Proof/Machine/Operands.lean ====
section
/-! DEFINITION. The operand forms: the address encoder (R118), the address field as the device reads it (R69), the bytes of a
frame, and the programs of the commands, built at accept from the operand registers (R143 to R145, R147). -/

namespace Sys2Proof.Machine

/-- `enc3` (R118): the three bytes of a 17-bit address, most-significant byte first. -/
def enc3 (a : BitVec 17) : List Byte := [(a.extractLsb' 16 1).setWidth 8, a.extractLsb' 8 8, a.extractLsb' 0 8]

/-- `ADDR[16:0]` (R90). -/
def addrOperand (addr : Word) : BitVec 17 := addr.setWidth 17

/-- `WDATA[7:0]` (R91). -/
def valueOperand (wdata : Word) : Byte := wdata.setWidth 8

/-- The cell a 24-bit address field selects: `A[16:0]`, the top 7 bits ignored (R69). -/
def cellOfField (a : BitVec 24) : Nat := (a.setWidth 17).toNat

/-- The cell of the address bytes of a frame, most-significant first (R54, R69). -/
def cellOfBytes (a2 a1 a0 : Byte) : Nat := cellOfField (a2 ++ a1 ++ a0)

/-- The exchanges of bytes whose received byte is discarded (R124). -/
def sendAll (bytes : List Byte) : List Action := bytes.map (fun b => Action.xfer b false)

/-- The program of INIT (R143). -/
def initProgram : List Action :=
  [.oe, .cs true, .cs false, .cs true, .cs false, .xfer 0x01#8 false, .xfer 0x00#8 false, .cs true, .settle]

/-- The program of WRITE (R144). -/
def writeProgram (a : BitVec 17) (v : Byte) : List Action :=
  .cs false :: (sendAll (0x02#8 :: (enc3 a ++ [v])) ++ [.cs true])

/-- The program of READ (R145): the response exchange sends `P_READ_FILL` and captures (R123). -/
def readProgram (a : BitVec 17) : List Action :=
  .cs false :: (sendAll (0x03#8 :: enc3 a) ++ [.xfer Config.readFill true, .cs true])

end Sys2Proof.Machine
end

