-- ==== Sys2Proof/Machine/Device.lean ====
section
/-! DEFINITION. The reference device (R66 to R72), bit by bit: the edges of chip-select, the bit it samples on a rising edge of
SCK, what a completed byte of a frame does, and what it drives on MISO. -/

namespace Sys2Proof.Machine

/-- `MEM[a]`: the byte written last, or the power-up contents (R66, I2), or in `RESP = Unknown` any value (R71). -/
def Device.cell (d : Device) (a : Nat) : Byte :=
  match d.resp with
  | .unknown => Config.unknownCell d.tick a
  | .asleep => (Memory.read? d.mem a).getD (Config.powerUpCell a)
  | .responsive => (Memory.read? d.mem a).getD (Config.powerUpCell a)

/-- Whether `MODE = Byte`; in `RESP = Unknown` any value (R71). -/
def Device.modeIsByte (d : Device) : Bool :=
  match d.resp with
  | .unknown => Config.unknownModeIsByte d.tick
  | .asleep => d.mode == .byte
  | .responsive => d.mode == .byte

/-- Entering `RESP = Unknown`, for the rest of the run: nothing of the device is known from here on (R71), so its fields hold
nothing and a new moment of Unknown begins (log 4). -/
def Device.enterUnknown (d : Device) : Device :=
  { mem := [], mode := .other, resp := .unknown, bytes := [], bitPos := 0, shift := 0x00#8, tick := d.tick + 1 }

/-- A falling edge of CS starts a frame with an empty byte list (R68). -/
def Device.csFall (d : Device) : Device :=
  match d.resp with
  | .unknown => d.enterUnknown
  | .asleep => { d with bytes := [], bitPos := 0, shift := 0x00#8 }
  | .responsive => { d with bytes := [], bitPos := 0, shift := 0x00#8 }

/-- A rising edge of CS after a low level: the first one makes a sleeping device responsive (R67); a frame that is not complete
is aborted with no change of state (R71). -/
def Device.csRise (d : Device) : Device :=
  match d.resp with
  | .unknown => d.enterUnknown
  | .asleep => { d with resp := .responsive }
  | .responsive => d

/-- The CS line as the device sees it, before and after. -/
def Device.seeCs (d : Device) (before after : Bool) : Device :=
  if before && !after then d.csFall else if !before && after then d.csRise else d

/-- What the frame `bytes`, whose last byte has just been sampled, does to a responsive device (R68 to R70, R72): an opcode it
gives no meaning, an opcode 0x02 or 0x03 while `MODE = Other`, a mode byte other than 0x00, or a byte more than the frame has,
puts it in `Unknown`. -/
def Device.frameStep (d : Device) (bytes : List Byte) : Device :=
  match bytes with
  | [] => d
  | [op] =>
    if op = 0x01#8 || ((op = 0x02#8 || op = 0x03#8) && d.mode == .byte) then { d with bytes := bytes } else d.enterUnknown
  | [op, m] =>
    if op = 0x01#8 then if m = 0x00#8 then { d with bytes := bytes, mode := .byte } else d.enterUnknown
    else { d with bytes := bytes }
  | [op, _, _] => if op = 0x01#8 then d.enterUnknown else { d with bytes := bytes }
  | [op, _, _, _] => if op = 0x01#8 then d.enterUnknown else { d with bytes := bytes }
  | [op, a2, a1, a0, v] =>
    if op = 0x02#8 then { d with bytes := bytes, mem := Memory.write d.mem (cellOfBytes a2 a1 a0) v }
    else if op = 0x03#8 then { d with bytes := bytes }
    else d.enterUnknown
  | _ => d.enterUnknown

/-- A rising edge of SCK while CS is low: the device samples MOSI, most-significant bit first (R55, R68). A sleeping device
ignores it (R67). -/
def Device.sampleBit (d : Device) (mosi : Bool) : Device :=
  match d.resp with
  | .unknown => d.enterUnknown
  | .asleep => d
  | .responsive =>
    let sh : Byte := d.shift.shiftConcat mosi
    if d.bitPos < 7 then { d with shift := sh, bitPos := d.bitPos + 1 }
    else Device.frameStep { d with shift := 0x00#8, bitPos := 0 } (d.bytes ++ [sh])

/-- The byte on MISO during the exchange that begins here: the addressed cell in the fifth exchange of a read frame (R70), else
whatever the draw says (I1). -/
def Device.drives (d : Device) (draw : Byte) : Byte :=
  match d.resp, d.bytes with
  | .responsive, [op, a2, a1, a0] => if op = 0x03#8 && d.mode == .byte then d.cell (cellOfBytes a2 a1 a0) else draw
  | _, _ => draw

/-- The first `n` bits of a byte clocked into the device, most-significant bit first. -/
def Device.clockIn : Nat → Byte → Device → Device
  | 0, _, d => d
  | n + 1, tx, d => Device.clockIn n (tx <<< 1) (d.sampleBit tx.msb)

/-- A frame's bytes exchanged with the device, exchange `j` on of the `k`-th frame from outside: the device after them, and the
bytes it answered. -/
def Device.exchangeAll (k : Nat) : Nat → List Byte → Device → Device × List Byte
  | _, [], d => (d, [])
  | j, tx :: rest, d =>
    let r := Device.exchangeAll k (j + 1) rest (Device.clockIn 8 tx d)
    (r.1, d.drives (Config.frameMiso k j) :: r.2)

end Sys2Proof.Machine
end

