-- ==== Sys2Proof/Machine/Serializer.lean ====
section
/-! DEFINITION. The byte serializer at the bit level, clock polarity 0 and clock phase 0 (R114), with the device on the other end
of the wires. -/

namespace Sys2Proof.Machine

/-- The start of an exchange: `TX_SH <- tx; RX_SH <- 0x00; BITS <- 0`. -/
def Serializer.load (s : Serializer) (tx : Byte) : Serializer := { s with txSh := tx, rxSh := 0x00#8, bits := 0 }

/-- `MOSI <- TX_SH[7]`, while SCK = 0. -/
def Serializer.drive (s : Serializer) : Serializer := { s with mosi := s.txSh.msb }

/-- The rising edge of SCK: the block samples MISO, `RX_SH <- RX_SH[6:0] ++ MISO`. -/
def Serializer.rise (s : Serializer) (miso : Bool) : Serializer := { s with sck := true, rxSh := s.rxSh.shiftConcat miso }

/-- The falling edge of SCK: `TX_SH <- TX_SH[6:0] ++ 0b0; BITS <- BITS + 1`. -/
def Serializer.fall (s : Serializer) : Serializer := { s with sck := false, txSh := s.txSh <<< 1, bits := s.bits + 1 }

/-- `n` periods of SCK, the device driving the bits of `miso` most-significant first and sampling MOSI on each rising edge. -/
def clockBits : Nat → Byte → Serializer × Device → Serializer × Device
  | 0, _, p => p
  | n + 1, miso, (ser, dev) =>
    let driven := ser.drive
    clockBits n (miso <<< 1) ((driven.rise miso.msb).fall, dev.sampleBit driven.mosi)

end Sys2Proof.Machine
end

