-- ==== Sys2Proof/Machine/Ops.lean ====
section
/-! DEFINITION. The named operations over the registers and the pads that the commands and the actions share: the trace, the CS
pad, the draws of the physical layer, the host's registers, accepting a command (R140), raising an error (R187), aborting on a
transport fault (R122) and completing (R121). There is no return from an error (R188). -/

namespace Sys2Proof.Machine

/-- `emit(ev)` (R13, R14). -/
def Block.emit (b : Block) (ev : Event) : Block := { b with trace := b.trace ++ [ev] }

/-- The level of the CS line: the latch while the pad is driven, else high through the platform's pull-up (R33, R42, I14). -/
def Block.csLine (b : Block) : Bool := if b.status.csOe then b.status.csLevel else true

/-- The block replaced, the device seeing what that does to the CS line. -/
def State.withPads (s : State) (b : Block) : State :=
  { s with blk := b, dev := s.dev.seeCs s.blk.csLine b.csLine }

/-- Raising an error (R187): its flag is set, and nothing else changes, no state is saved, no control is transferred. -/
def Block.raise (b : Block) (e : Err) : Block := { b with status := b.status.raise e }

/-- `STATUS.CS_OE <- 1; emit(OE)` (R111). -/
def State.enableCs (s : State) : State :=
  s.withPads (Block.emit { s.blk with status := { s.blk.status with csOe := true } } .oe)

/-- `STATUS.CS_LEVEL <- l; emit(CS(l))` (R112). -/
def State.setCs (s : State) (l : Bool) : State :=
  s.withPads (Block.emit { s.blk with status := { s.blk.status with csLevel := l } } (.cs l))

/-- What the physical layer answers to the `k`-th exchange from here: the queued answer, or the free draws (log 2). -/
def State.drawAt (s : State) (k : Nat) : PhyDraw :=
  match s.env.phy[k]? with
  | some d => d
  | none =>
    { fault := Config.drawFault s.env.runNo (s.blk.xferIdx + k),
      bits := Config.drawFaultBits s.env.runNo (s.blk.xferIdx + k),
      miso := Config.drawMiso s.env.runNo (s.blk.xferIdx + k) }

/-- Whether the `k`-th exchange from here faults: never with `P_FAULTS = false` (R13, R113). -/
def State.faultsAt (s : State) (k : Nat) : Bool := s.params.faults && (s.drawAt k).fault

/-- One exchange more is behind the block: its draws are used up. -/
def State.useDraw (s : State) : State :=
  { s with blk := { s.blk with xferIdx := s.blk.xferIdx + 1 }, env := { s.env with phy := s.env.phy.drop 1 } }

/-- `RegRead(off)` of an aligned word (R20 to R36): CMD and the reserved offsets read 0. No side effect (R59). -/
def Block.regRead (b : Block) (off : Nat) : Word :=
  if off = 0x04 then b.addr
  else if off = 0x08 then b.wdata
  else if off = 0x0C then b.rdata
  else if off = 0x10 then b.status.word
  else 0x00000000#32

/-- `RegWrite(off, v)` of an aligned word at any offset but CMD's: ADDR and WDATA take it, RDATA, STATUS and the reserved offsets
ignore it (R22 to R24, R36). -/
def Block.regWrite (b : Block) (off : Nat) (v : Word) : Block :=
  if off = 0x04 then { b with addr := v } else if off = 0x08 then { b with wdata := v } else b

/-- Accept (R140): a CMD write while BUSY = 1 is dropped and flagged (R146); else the error flags are cleared and the command
starts. -/
def Block.accept (start : Block → Block) (b : Block) : Block :=
  if b.status.busy then b.raise .busy else start { b with status := b.status.clearErrors }

/-- The start of a program: `CUR_OP`, `SEQ`, `SEQ_PC <- 0` and `STATUS.BUSY <- 1` (R143 to R145). -/
def Block.startProgram (b : Block) (op : CurOp) (seq : List Action) : Block :=
  { b with curOp := op, seq := seq, seqPc := 0, status := { b.status with busy := true } }

/-- Completion (R121), by `CUR_OP`; then `STATUS.BUSY <- 0`. -/
def Block.complete (b : Block) : Block :=
  match b.curOp with
  | .init => { b with status := { b.status with init := true, busy := false } }
  | .read => { b with rdata := b.capture.zext32, status := { b.status with busy := false } }
  | .write => { b with status := { b.status with busy := false } }
  | .none => { b with status := { b.status with busy := false } }

/-- `SEQ_PC <- SEQ_PC + 1`, and completion after the last action (R120). -/
def Block.advance (b : Block) : Block :=
  let b1 : Block := { b with seqPc := b.seqPc + 1 }
  if b1.seqPc = b1.seq.length then b1.complete else b1

/-- Abort on a transport fault (R122): CS is released if it is low, every remaining action is skipped, ERR_XPORT is raised and
BUSY cleared. STATUS.INIT and RDATA keep their values. -/
def State.abort (s : State) : State :=
  let s1 := if s.blk.status.csLevel then s else s.setCs true
  let b := s1.blk.raise .xport
  { s1 with blk := { b with seqPc := b.seq.length, status := { b.status with busy := false } } }

end Sys2Proof.Machine
end

