-- ==== Sys2Proof/Machine/HostCommands.lean ====
section
/-! DEFINITION. The host commands RSVD, INIT, WRITE and READ (R142 to R145): what a CMD write that names one does, in the step of the
write. Nothing goes on the bus in that step; the program it starts is performed by the controller's steps (R140). -/

namespace Sys2Proof.Machine

/-- The part of RSVD after the accept (R142). -/
def Block.startRsvd (b : Block) : Block := b.raise .cmd

/-- The part of INIT after the accept (R143): `STATUS.INIT <- 0`, and its program starts. -/
def Block.startInit (b : Block) : Block :=
  Block.startProgram { b with status := { b.status with init := false } } .init initProgram

/-- The part of WRITE after the accept (R144): every check that fails raises its flag, all in this step (R186); the program starts
if none fails. -/
def Block.startWrite (b : Block) : Block :=
  if b.initOk && b.addrOk && b.valueOk then
    b.startProgram .write (writeProgram (addrOperand b.addr) (valueOperand b.wdata))
  else
    { b with
      status := ((b.status.raiseUnless b.initOk .noinit).raiseUnless b.addrOk .addr).raiseUnless b.valueOk .value }

/-- The part of READ after the accept (R145): as WRITE, WDATA not checked. -/
def Block.startRead (b : Block) : Block :=
  if b.initOk && b.addrOk then b.startProgram .read (readProgram (addrOperand b.addr))
  else { b with status := (b.status.raiseUnless b.initOk .noinit).raiseUnless b.addrOk .addr }

/-- `RSVD` (R142). -/
def execRsvd (s : State) : Host.Outcome State Fault Refusal := .next { s with blk := Block.accept Block.startRsvd s.blk }

/-- `INIT` (R143). -/
def execInit (s : State) : Host.Outcome State Fault Refusal := .next { s with blk := Block.accept Block.startInit s.blk }

/-- `WRITE` (R144). -/
def execWrite (s : State) : Host.Outcome State Fault Refusal := .next { s with blk := Block.accept Block.startWrite s.blk }

/-- `READ` (R145). -/
def execRead (s : State) : Host.Outcome State Fault Refusal := .next { s with blk := Block.accept Block.startRead s.blk }

end Sys2Proof.Machine
end

