-- ==== Sys2Proof/WellFormed.lean ====
section
/-! DEFINITION. Which instructions are well formed: the checks the spec makes on the fields of an encoding. -/

namespace Sys2Proof

/-- `MODE_BYTE[5:0]` is reserved and must be 0 (R85, R93, R95). -/
def Instr.reservedModeBitsZero : Instr → Bool
  | .rsvd _ => true
  | .init _ => true
  | .write _ => true
  | .read _ => true
  | .wrmr _ rsv => rsv == 0#6
  | .wireWrite _ _ => true
  | .wireRead _ _ => true
  | .rdmr _ => true
  | .edio _ => true
  | .eqio _ => true
  | .rstio _ => true

/-- Byte 4 sent of format F_ADDR_RX is `P_READ_FILL` (R87, R123). No decoder checks it (DESIGN CHOICE, log 19). -/
def Instr.readFillSent : Instr → Bool
  | .rsvd _ => true
  | .init _ => true
  | .write _ => true
  | .read _ => true
  | .wrmr _ _ => true
  | .wireWrite _ _ => true
  | .wireRead _ fill => fill == Config.readFill
  | .rdmr _ => true
  | .edio _ => true
  | .eqio _ => true
  | .rstio _ => true

/-- An instruction is well formed when every check on its fields holds. A host command has none: `CMD[31:2]` may be anything
(R83). The address of a frame has none: its top 7 bits are ignored (R69). -/
def Instr.wf (i : Instr) : Bool := i.reservedModeBitsZero && i.readFillSent

/-- The frames the block may put on the wire: exactly the opcodes 0x01, 0x02 and 0x03, the mode byte always 0x00 and
`A[23:17] = 0` (R52, R53, R95). -/
def Instr.emittedByBlock : Instr → Bool
  | .rsvd _ => false
  | .init _ => false
  | .write _ => false
  | .read _ => false
  | .wrmr mode rsv => mode == 0#2 && rsv == 0#6
  | .wireWrite a _ => decide (a.toNat ≤ Config.addrMax)
  | .wireRead a fill => decide (a.toNat ≤ Config.addrMax) && fill == Config.readFill
  | .rdmr _ => false
  | .edio _ => false
  | .eqio _ => false
  | .rstio _ => false

end Sys2Proof
end

