-- ==== Sys2Proof/Decode.lean ====
section
/-! DEFINITION. The two decoders of R80: of a host command word (it reads `CMD[1:0]` only, R83) and of an SPI frame (it reads
byte 0, R84). Both are total and the frame decoder rejects by name. After them the encoder, written from R81 to R88. -/

namespace Sys2Proof

/-- What an instruction arrives as: a word written to CMD, or the bytes sent while CS is low (R80, R84). -/
inductive Fetched where
  | word (w : Word)
  | frame (bytes : List Byte)
  deriving DecidableEq, Repr

/-- Why a byte list is no frame of the spec. -/
inductive DecodeError where
  /-- No byte was sent while CS was low: there is no opcode (R84). -/
  | emptyFrame
  /-- Byte 0 is none of the seven opcodes of R160. -/
  | unknownOpcode (op : Byte)
  /-- The frame has not the length its opcode fixes (R94). -/
  | wrongLength (op : Byte) (len : Nat)
  /-- `MODE_BYTE[5:0]` is reserved and must be 0: a decoder rejects another mode byte (R95, I6). -/
  | reservedModeBits (m : Byte)
  /-- `MODE` is not `0b00`: a decoder of wire traces refuses it, since it is never sent (R168, I7). -/
  | neverSentMode (mode : BitVec 2)
  /-- The opcode is named but never emitted: a decoder of wire traces refuses it (R164, I8). -/
  | neverEmitted (op : Byte)
  deriving DecidableEq, Repr

/-- What a decoder answers. -/
inductive Decoded where
  | ok (i : Instr)
  | rejected (e : DecodeError)
  deriving DecidableEq, Repr

/-- R82: the command a word written to CMD names. Every word names one; `CMD[31:2]` is ignored (R83). -/
def decodeHost (w : Word) : Instr :=
  let rsv : BitVec 30 := w.extractLsb' 2 30
  let op : BitVec 2 := w.extractLsb' 0 2
  if op = 0b00#2 then .rsvd rsv
  else if op = 0b01#2 then .init rsv
  else if op = 0b10#2 then .write rsv
  else .read rsv

/-- R85: byte 1 of F_MODE. A byte whose reserved bits are not 0 is rejected (R95, I6). DESIGN CHOICE (log 5): a MODE other than
`0b00` is read here and refused by `decodeTraceFrame` only (I7). -/
def decodeModeFrame : List Byte → Decoded
  | [m] =>
    if m.extractLsb' 0 6 = 0#6 then .ok (.wrmr (m.extractLsb' 6 2) (m.extractLsb' 0 6)) else .rejected (.reservedModeBits m)
  | rest => .rejected (.wrongLength 0x01#8 (rest.length + 1))

/-- R86: bytes 1 to 4 of F_ADDR_DATA, the address most-significant byte first (R54). DESIGN CHOICE (log 19): any `A[23:17]` is
accepted. -/
def decodeWriteFrame : List Byte → Decoded
  | [a2, a1, a0, d] => .ok (.wireWrite (a2 ++ a1 ++ a0) d)
  | rest => .rejected (.wrongLength 0x02#8 (rest.length + 1))

/-- R87: bytes 1 to 4 sent of F_ADDR_RX. DESIGN CHOICE (log 19): any `A[23:17]` and any byte 4 are accepted. -/
def decodeReadFrame : List Byte → Decoded
  | [a2, a1, a0, fill] => .ok (.wireRead (a2 ++ a1 ++ a0) fill)
  | rest => .rejected (.wrongLength 0x03#8 (rest.length + 1))

/-- R160: the frame a list of sent bytes is. -/
def decodeFrame : List Byte → Decoded
  | [] => .rejected .emptyFrame
  | op :: rest =>
    if op = 0x01#8 then decodeModeFrame rest
    else if op = 0x02#8 then decodeWriteFrame rest
    else if op = 0x03#8 then decodeReadFrame rest
    else if op = 0x05#8 then .ok (.rdmr rest)
    else if op = 0x3B#8 then .ok (.edio rest)
    else if op = 0x38#8 then .ok (.eqio rest)
    else if op = 0xFF#8 then .ok (.rstio rest)
    else .rejected (.unknownOpcode op)

/-- The decoder of wire traces of R164: as `decodeFrame`, but it refuses the four opcodes the block never emits (I8) and the access
modes it never sends (R168, I7). DESIGN CHOICE (log 19): it does not refuse `A[23:17]` or a read fill that are not 0. -/
def decodeTraceFrame (bytes : List Byte) : Decoded :=
  match decodeFrame bytes with
  | .ok (.wrmr mode rsv) => if mode = 0b00#2 then .ok (.wrmr mode rsv) else .rejected (.neverSentMode mode)
  | .ok (.rdmr _) => .rejected (.neverEmitted 0x05#8)
  | .ok (.edio _) => .rejected (.neverEmitted 0x3B#8)
  | .ok (.eqio _) => .rejected (.neverEmitted 0x38#8)
  | .ok (.rstio _) => .rejected (.neverEmitted 0xFF#8)
  | r => r

/-- The decoder of either level. -/
def decode : Fetched → Decoded
  | .word w => .ok (decodeHost w)
  | .frame bytes => decodeFrame bytes

/-- The three bytes of a 24-bit wire address, in the order of bytes 1 to 3 of a frame (R54, R86). -/
def wireAddrBytes (a : BitVec 24) : List Byte := [a.extractLsb' 16 8, a.extractLsb' 8 8, a.extractLsb' 0 8]

/-- The encoder: the word or the bytes sent of an instruction (R81, R82, R85 to R88). -/
def encode : Instr → Fetched
  | .rsvd rsv => .word (rsv ++ 0b00#2)
  | .init rsv => .word (rsv ++ 0b01#2)
  | .write rsv => .word (rsv ++ 0b10#2)
  | .read rsv => .word (rsv ++ 0b11#2)
  | .wrmr mode rsv => .frame [0x01#8, mode ++ rsv]
  | .wireWrite a d => .frame (0x02#8 :: (wireAddrBytes a ++ [d]))
  | .wireRead a fill => .frame (0x03#8 :: (wireAddrBytes a ++ [fill]))
  | .rdmr rest => .frame (0x05#8 :: rest)
  | .edio rest => .frame (0x3B#8 :: rest)
  | .eqio rest => .frame (0x38#8 :: rest)
  | .rstio rest => .frame (0xFF#8 :: rest)

/-- The least `n` bytes of a number, the first the least significant: the numbering of the opcode table, in which byte 0 of a
frame is bits 7 to 0. -/
def tableBytes : Nat → Nat → List Byte
  | 0, _ => []
  | n + 1, w => BitVec.ofNat 8 w :: tableBytes n (w / 256)

/-- How many bytes of a frame follow from the opcode (R94): 2, 5 and 5; of the never-emitted opcodes only as many as the table
gives are known (R88). `none`: the byte is no opcode of R160. -/
def tableFrameLength (op : Byte) (nbits : Nat) : Option Nat :=
  if op = 0x01#8 then some 2
  else if op = 0x02#8 then some 5
  else if op = 0x03#8 then some 5
  else if op = 0x05#8 || op = 0x3B#8 || op = 0x38#8 || op = 0xFF#8 then some (max 1 (nbits / 8))
  else none

/-- The instruction whose bits are `w` as the opcode table numbers them, laid out as it arrives. The table mixes the two levels;
a row of 32 bits is a CMD word, a row of any other width is a frame when its byte 0 is an opcode of R160, and else a CMD word
whose upper bits are 0 (log 6). -/
def tableFetched (nbits w : Nat) : Fetched :=
  if nbits = 32 then .word (BitVec.ofNat 32 w)
  else
    match tableFrameLength (BitVec.ofNat 8 w) nbits with
    | some n => .frame (tableBytes n w)
    | none => if nbits < 32 then .word (BitVec.ofNat 32 w) else .frame (tableBytes (nbits / 8) w)

/-- What the decoder reads from an instruction of the opcode table. -/
def decodeTableWord (nbits w : Nat) : Option Instr :=
  match decode (tableFetched nbits w) with
  | .ok i => some i
  | .rejected _ => none

end Sys2Proof
end

