-- ==== Sys2Proof/Machine/WireFrames.lean ====
section
/-! DEFINITION. The frames of the wire level (R160 to R168): what each does at the attached device when it is driven at the device's
pins, from the falling to the rising edge of CS. The frames the block itself emits reach the device action by action, through
the frame engine, over the same device operations. -/

namespace Sys2Proof.Machine

/-- A frame driven at the device's pins while the CS line is high (R84): the device after it, and the bytes it answered. -/
def Device.frame (d : Device) (k : Nat) (bytes : List Byte) : Device × List Byte :=
  let r := Device.exchangeAll k 0 bytes d.csFall
  (r.1.csRise, r.2)

/-- A frame from outside the block, at the machine. While the block holds CS low the platform must keep every other transaction
off the lines (R194); where it does not, the device can no longer be known (DEDUCED, log 5). The block sees nothing of it. -/
def State.frame (s : State) (bytes : List Byte) : State :=
  let d := if s.blk.csLine then s.dev else s.dev.enterUnknown
  let r := d.frame s.env.frameNo bytes
  { s with dev := r.1, env := { s.env with frameNo := s.env.frameNo + 1, frameRx := r.2 } }

/-- `0x01`, write-mode-register (R161). -/
def execWrmr (mode : BitVec 2) (rsv : BitVec 6) (s : State) : Host.Outcome State Fault Refusal :=
  .next (s.frame [0x01#8, mode ++ rsv])

/-- `0x02`, write (R162). -/
def execWireWrite (a : BitVec 24) (d : Byte) (s : State) : Host.Outcome State Fault Refusal :=
  .next (s.frame (0x02#8 :: (wireAddrBytes a ++ [d])))

/-- `0x03`, read (R163): the device answers the cell in the fifth exchange. -/
def execWireRead (a : BitVec 24) (fill : Byte) (s : State) : Host.Outcome State Fault Refusal :=
  .next (s.frame (0x03#8 :: (wireAddrBytes a ++ [fill])))

/-- `0x05`, read-mode-register (R164): a responsive device goes to `Unknown` (R72). -/
def execRdmr (rest : List Byte) (s : State) : Host.Outcome State Fault Refusal := .next (s.frame (0x05#8 :: rest))

/-- `0x3B`, enable-dual-IO (R165): a responsive device goes to `Unknown` (R72). -/
def execEdio (rest : List Byte) (s : State) : Host.Outcome State Fault Refusal := .next (s.frame (0x3B#8 :: rest))

/-- `0x38`, enable-quad-IO (R166): a responsive device goes to `Unknown` (R72). -/
def execEqio (rest : List Byte) (s : State) : Host.Outcome State Fault Refusal := .next (s.frame (0x38#8 :: rest))

/-- `0xFF`, reset-IO (R167): a responsive device goes to `Unknown` (R72). -/
def execRstio (rest : List Byte) (s : State) : Host.Outcome State Fault Refusal := .next (s.frame (0xFF#8 :: rest))

end Sys2Proof.Machine
end

