-- ==== Sys2Proof/Machine/Dispatch.lean ====
section
/-! DEFINITION. The dispatch: one arm per instruction, each a call of its meaning. -/

namespace Sys2Proof.Machine

def exec (i : Instr) (s : State) : Host.Outcome State Fault Refusal :=
  match i with
  -- host commands (R142 to R145): CMD[31:2] is ignored (R83)
  | .rsvd _ => Sys2Proof.Machine.execRsvd s
  | .init _ => Sys2Proof.Machine.execInit s
  | .write _ => Sys2Proof.Machine.execWrite s
  | .read _ => Sys2Proof.Machine.execRead s
  -- frames of the wire level (R161 to R167)
  | .wrmr mode rsv => Sys2Proof.Machine.execWrmr mode rsv s
  | .wireWrite a d => Sys2Proof.Machine.execWireWrite a d s
  | .wireRead a fill => Sys2Proof.Machine.execWireRead a fill s
  | .rdmr rest => Sys2Proof.Machine.execRdmr rest s
  | .edio rest => Sys2Proof.Machine.execEdio rest s
  | .eqio rest => Sys2Proof.Machine.execEqio rest s
  | .rstio rest => Sys2Proof.Machine.execRstio rest s

end Sys2Proof.Machine
end

