-- ==== Sys2Proof/Machine/Engine.lean ====
section
/-! DEFINITION. The frame engine: the four actions (R111 to R117) and the controller's step (R120). -/

namespace Sys2Proof.Machine

/-- How an action ends: performed, aborted by a transport fault (R122), or stuck because its precondition does not hold. -/
inductive Performed where
  | done (s : State)
  | aborted (s : State)
  | stuck (f : Fault)
  deriving DecidableEq, Repr

/-- The exchange of one byte that does not fault (R113, R114): eight periods of SCK. -/
def State.exchange (s : State) (tx : Byte) (cap : Bool) : State :=
  let r := clockBits 8 (s.dev.drives (s.drawAt 0).miso) (s.blk.ser.load tx, s.dev)
  let u := s.useDraw
  let b : Block := { u.blk with ser := r.1, capture := if cap then r.1.rxSh else u.blk.capture }
  { u with blk := b.emit (.x tx r.1.rxSh), dev := r.2 }

/-- The exchange of one byte that faults after the drawn number of bits (R113, R114, I11): the device can no longer be known
(R71), and the program is aborted (R122). -/
def State.exchangeFault (s : State) (tx : Byte) : State :=
  let p := s.drawAt 0
  let r := clockBits p.bits.val (s.dev.drives p.miso) (s.blk.ser.load tx, s.dev)
  let u := s.useDraw
  let b : Block := { u.blk with ser := r.1 }
  State.abort { u with blk := b.emit (.xf tx), dev := r.2.enterUnknown }

/-- `A_XFER(tx, cap)` (R113), only while CS is low and driven (R115). -/
def State.doXfer (s : State) (tx : Byte) (cap : Bool) : Performed :=
  if s.blk.status.csLevel || !s.blk.status.csOe then .stuck .xferOutsideFrame
  else if s.faultsAt 0 then .aborted (s.exchangeFault tx)
  else .done (s.exchange tx cap)

/-- What SETTLE_CNT is loaded with: `ceil(P_SETTLE_US * P_F_CLK / 10^6)` (R41, R117). -/
def settleLoad (p : Params) : Nat := (p.settleUs * p.fClk + 999999) / 1000000

/-- `while SETTLE_CNT > 0: SETTLE_CNT <- SETTLE_CNT - 1` (R117). -/
def countDown : Nat → Nat
  | 0 => 0
  | n + 1 => countDown n

/-- What SETTLE_CNT holds when the action goes on: its value, or the load when it has not begun. -/
def State.settleStart (s : State) : Nat := if s.blk.settleCnt = 0 then settleLoad s.params else s.blk.settleCnt

/-- `A_SETTLE` to its end (R117). -/
def State.doSettle (s : State) : Performed :=
  if s.blk.status.csLevel then
    .done { s with blk := Block.emit { s.blk with settleCnt := countDown s.settleStart } .settle }
  else .stuck .settleInsideFrame

/-- One action (R110). -/
def State.perform (s : State) : Action → Performed
  | .oe => .done s.enableCs
  | .cs l => .done (s.setCs l)
  | .xfer tx cap => s.doXfer tx cap
  | .settle => s.doSettle

/-- The action about to be performed; `none` when the controller is idle (R37). -/
def Block.nextAction (b : Block) : Option Action := b.seq[b.seqPc]?

/-- What follows an action: the next one, or completion; nothing after an abort (R120). -/
def Performed.outcome : Performed → Host.Outcome State Fault Refusal
  | .done s => .next { s with blk := s.blk.advance }
  | .aborted s => .next s
  | .stuck f => .fault f

/-- The controller's step (R120). An idle controller has no step: the machine waits as it is (R212; log 7). -/
def controllerStep (s : State) : Host.Outcome State Fault Refusal :=
  match s.blk.nextAction with
  | none => .next s
  | some a => (s.perform a).outcome

/-- One period of the system clock (R41): `A_SETTLE` loads SETTLE_CNT when it begins and counts it down, and ends when the count
reaches 0; nothing else counts clocks. -/
def clockStep (s : State) : Host.Outcome State Fault Refusal :=
  if s.blk.nextAction = some .settle then
    let n := if s.blk.settleCnt = 0 then settleLoad s.params else s.blk.settleCnt - 1
    if n = 0 then controllerStep { s with blk := { s.blk with settleCnt := 0 } }
    else .next { s with blk := { s.blk with settleCnt := n } }
  else .next s

end Sys2Proof.Machine
end

