-- ==== Sys2Proof/Machine/Turns.lean ====
section
/-! DEFINITION. The moves of the agents: the host's register accesses (R13, R20, R56), its polling loop (R97), a frame at the device's
pins, the reset input (R210, R211), and whose move is next (R15). -/

namespace Sys2Proof.Machine

/-- Whether an access reaches the register window (R20): one of its bytes lies in it. An access of width 0 is judged by its address
(DESIGN CHOICE, log 9). -/
def State.inWindow (s : State) (addr width : Nat) : Bool :=
  decide (addr < s.params.base + Config.windowBytes) && decide (s.params.base < addr + max 1 width)

/-- Whether an access of the window is one the block's contract admits: 32 bits, at an offset that is a multiple of 4 (R56). An access
that begins below the window has no offset in it. -/
def State.admits (s : State) (addr width : Nat) : Bool :=
  width == 4 && decide (s.params.base ≤ addr) && (addr - s.params.base) % 4 == 0

/-- A host write of an aligned word at an offset of the window: at CMD's it runs the command the word names, in this step (R140). -/
def writeOffset (off : Nat) (v : Word) (s : State) : Host.Outcome State Fault Refusal :=
  if off = 0x00 then exec (decodeHost v) s else .next { s with blk := s.blk.regWrite off v }

/-- One access of the host (R13). An access that does not reach the window is none of the block's (log 9); one that does and that the contract does
not admit leaves the host stuck (R56). -/
def hostStep (op : HostOp) (s : State) : Host.Outcome State Fault Refusal :=
  match op with
  | .read addr width =>
    if !s.inWindow addr width then .next s
    else if !s.admits addr width then .fault .hostAccessOutsideContract
    else .next { s with env := { s.env with hostRd := s.blk.regRead (addr - s.params.base) } }
  | .write addr width data =>
    if !s.inWindow addr width then .next s
    else if !s.admits addr width then .fault .hostAccessOutsideContract
    else writeOffset (addr - s.params.base) data s

/-- One round of `L: rd STATUS -> t ; if t[0] = 1 go to L` (R97); while BUSY = 1 the controller moves before the next round
(log 7). -/
def waitStep (s : State) : Host.Outcome State Fault Refusal :=
  let more : List Turn := if s.blk.status.busy then [.controller, .wait] else []
  .next { s with env := { s.env with hostRd := s.blk.status.word, turns := more ++ s.env.turns } }

/-- The bits of the exchange about to be performed that reach the device before the reset input cuts it off. -/
def State.cutExchange (s : State) (bits : Nat) : Device :=
  match s.blk.nextAction with
  | some (.xfer tx _) => if s.blk.csLine then s.dev else Device.clockIn (min bits 7) tx s.dev
  | some .oe => s.dev
  | some (.cs _) => s.dev
  | some .settle => s.dev
  | none => s.dev

/-- The reset input (R210, R211): every piece of the block's state takes its reset value, the CS pad is no longer driven and the
line rises; the device is not reset. A new run begins (R211). -/
def State.applyReset (s : State) (bits : Nat) : State :=
  { s with
    blk := Block.reset
    dev := (s.cutExchange bits).seeCs s.blk.csLine Block.reset.csLine
    env := { s.env with runNo := s.env.runNo + 1 } }

/-- A frame at the device's pins: the instruction it decodes to, or what the device makes of bytes that are none (R71, R72). -/
def frameTurn (bytes : List Byte) (s : State) : Host.Outcome State Fault Refusal :=
  match decodeFrame bytes with
  | .ok i => exec i s
  | .rejected _ => .next (s.frame bytes)

/-- One move. -/
def runTurn (t : Turn) (s : State) : Host.Outcome State Fault Refusal :=
  match t with
  | .host op => hostStep op s
  | .wait => waitStep s
  | .frame bytes => frameTurn bytes s
  | .controller => controllerStep s
  | .clock => clockStep s
  | .reset bits => .next (s.applyReset bits)

/-- The next move off the queue. -/
def State.popTurn (s : State) : State := { s with env := { s.env with turns := s.env.turns.drop 1 } }

/-- The move that is next: the first of the queue, and the controller's when the queue is empty (log 7). -/
def State.nextTurn (s : State) : Turn := s.env.turns.headD .controller

/-- The move by which an instruction of the opcode table arrives: a host write to CMD, or a frame at the device's pins. -/
def State.turnOf (s : State) : Fetched → Turn
  | .word w => .host (.write s.params.base 4 w)
  | .frame bytes => .frame bytes

/-- A move put at the head of the queue. -/
def State.pushTurn (s : State) (t : Turn) : State := { s with env := { s.env with turns := t :: s.env.turns } }

end Sys2Proof.Machine
end

