-- ==== Sys2Proof/Machine/Step.lean ====
section
/-! DEFINITION. One step of the machine: the next move of the agents. -/

namespace Sys2Proof.Machine

/-- One step (R15): the move at the head of the queue, taken off it; the controller's own step when nothing is queued. -/
def step (s : State) : Host.Outcome State Fault Refusal := runTurn s.nextTurn s.popTurn

/-- `s` with an instruction of the opcode table as its next move. A program of this machine is the host's sequence of register
accesses; it comes from outside, and this stands for it (log 6, 7). -/
def State.withFetchWord (s : State) (nbits w : Nat) : State := s.pushTurn (s.turnOf (tableFetched nbits w))

end Sys2Proof.Machine
end

