-- ==== Sys2Proof/Safety.lean ====
section
/-! DEFINITION. What claims are stated in: the invariant of the machine, built from the spec's whole-machine rules, and the readings of
a state that statements use (whether a command runs, whether the coming exchanges fault, a run of several steps). -/

namespace Sys2Proof.Machine

/-- The CS latch after the actions `as`, from the level `l`. -/
def csAfter : List Action → Bool → Bool
  | [], l => l
  | .cs l' :: as, _ => csAfter as l'
  | .oe :: as, l => csAfter as l
  | .xfer _ _ :: as, l => csAfter as l
  | .settle :: as, l => csAfter as l

/-- `SEQ` is a program `CUR_OP` can have (R37, R38, R143 to R145). -/
def Block.seqFits (b : Block) : Prop :=
  match b.curOp with
  | .none => b.seq = []
  | .init => b.seq = initProgram
  | .write => ∃ a v, b.seq = writeProgram a v
  | .read => ∃ a, b.seq = readProgram a

/-- The invariant of the block. -/
structure Block.Inv (b : Block) : Prop where
  /-- `SEQ` holds the program of `CUR_OP` (R38). -/
  seqFits : b.seqFits
  /-- `SEQ_PC` in `0 .. len(SEQ)` (R37). -/
  pcInSeq : b.seqPc ≤ b.seq.length
  /-- Idle, `SEQ_PC = len(SEQ)`, is equivalent to `BUSY = 0` (R37). -/
  busyIff : b.status.busy = true ↔ b.seqPc < b.seq.length
  /-- The CS latch is what the actions performed so far have written, from high (R33, R125). -/
  csFollows : b.status.csLevel = csAfter (b.seq.take b.seqPc) true
  /-- The CS pad is driven once the first action of INIT is performed, and by every WRITE and READ (R111, R115, R216). -/
  oeDriven : b.curOp ≠ .none → (b.curOp = .init → 0 < b.seqPc) → b.status.csOe = true
  /-- An initialized block drives the CS pad (R216). -/
  initDriven : b.status.init = true → b.status.csOe = true
  /-- `STATUS.INIT` reads 0 while an INIT runs (R26, R219). -/
  initCleared : b.status.busy = true → b.curOp = .init → b.status.init = false
  /-- WRITE and READ run on an initialized block only (R29, R216). -/
  initHeld : b.status.busy = true → b.curOp ≠ .init → b.status.init = true
  /-- While a command runs, its error flags read 0 (R219); ERR_BUSY may be set (R146). -/
  noErrorYet : b.status.busy = true →
    b.status.errAddr = false ∧ b.status.errValue = false ∧ b.status.errNoinit = false ∧
      b.status.errXport = false ∧ b.status.errCmd = false
  /-- `RDATA[31:8]` reads 0 (R24). -/
  rdataByte : b.rdata.toNat < 256
  /-- SCK idles at 0 (R40). -/
  sckIdle : b.ser.sck = false
  /-- `BITS` in `0 .. 8` (R40). -/
  bitsInByte : b.ser.bits ≤ 8
  /-- SETTLE_CNT counts during `A_SETTLE` only (R41). -/
  settleOnly : 0 < b.settleCnt → b.nextAction = some .settle

/-- The invariant of the reference device: the memory in its canonical form, within the address space (R51), and the bit position
within a byte (R66). -/
structure Device.Inv (d : Device) : Prop where
  memWf : Memory.wf d.mem = true
  bitInByte : d.bitPos < 8

/-- The invariant of the machine. -/
structure State.Inv (s : State) : Prop where
  blk : s.blk.Inv
  dev : s.dev.Inv
  /-- From the rising edge of INIT's pulse on, the device no longer sleeps (R67, R216). -/
  awake : (s.blk.status.init = true ∨ s.blk.curOp = .write ∨ s.blk.curOp = .read ∨
      (s.blk.curOp = .init ∧ 4 ≤ s.blk.seqPc)) → s.dev.resp ≠ .asleep

/-- None of the next `n` exchanges faults (R13). -/
def State.noFault (s : State) (n : Nat) : Prop := ∀ k, k < n → s.faultsAt k = false

/-- A move is an operation of the host program: an access, or a round of its polling loop. -/
def Turn.isHost : Turn → Bool
  | .host _ => true
  | .wait => true
  | .frame _ => false
  | .controller => false
  | .clock => false
  | .reset _ => false

/-- A move is the reset input. -/
def Turn.isReset : Turn → Bool
  | .host _ => false
  | .wait => false
  | .frame _ => false
  | .controller => false
  | .clock => false
  | .reset _ => true

/-- The host program has a next operation in this run: one is queued before the next reset, at which the run is over (R211, R224). -/
def hostContinues : List Turn → Bool
  | [] => false
  | t :: ts => t.isHost || (!t.isReset && hostContinues ts)

/-- A run has ended (R224): the host program has no next operation, and the controller is idle. What else is queued, for the
controller, the clock, the device's pins or the reset input, does not matter. -/
def State.runEnded (s : State) : Bool := !hostContinues s.env.turns && decide (s.blk.seqPc = s.blk.seq.length)

/-- `n` steps of the machine. -/
def runSteps : Nat → State → Host.Outcome State Fault Refusal
  | 0, s => .next s
  | n + 1, s =>
    match step s with
    | .next t => runSteps n t
    | .fault f => .fault f
    | .refused r => .refused r

/-- `n` controller steps of the machine (R120), whatever is queued. -/
def runController : Nat → State → Host.Outcome State Fault Refusal
  | 0, s => .next s
  | n + 1, s =>
    match controllerStep s with
    | .next t => runController n t
    | .fault f => .fault f
    | .refused r => .refused r

/-- The bytes sent of the exchanges that completed, in order. -/
def sentBytes : List Event → List Byte
  | [] => []
  | .x tx _ :: es => tx :: sentBytes es
  | .oe :: es => sentBytes es
  | .cs _ :: es => sentBytes es
  | .xf _ :: es => sentBytes es
  | .settle :: es => sentBytes es

/-- The bytes the exchanges of a program send, in order. -/
def programBytes : List Action → List Byte
  | [] => []
  | .xfer tx _ :: as => tx :: programBytes as
  | .oe :: as => programBytes as
  | .cs _ :: as => programBytes as
  | .settle :: as => programBytes as

/-- A move that reaches neither the device nor CMD nor ADDR, and does not end the run: the controller's, the clock's, an aligned
read of a register, an aligned write of WDATA. -/
def State.harmless (s : State) : Turn → Bool
  | .controller => true
  | .clock => true
  | .host (.read addr width) => s.inWindow addr width && s.admits addr width
  | .host (.write addr width _) => addr == s.params.base + 0x08 && width == 4
  | .wait => false
  | .frame _ => false
  | .reset _ => false

end Sys2Proof.Machine
end

