-- ==== Sys2Proof/Certificates/Slice0/Obligations.lean ====
section
/-! DEFINITION. The statements about the machine, from the numbered rules of the spec. -/

open Sys2Proof Sys2Proof.Machine

/-! ## Encoding -/

/-- Words and frames written out from R82 and R85 to R88 decode to the instruction they stand for. That `decodeFrame` reads the mode
frame `[0x01, 0x40]`, whose MODE is not 0b00, and leaves its refusal (I7) to the decoder of wire traces, is the model's choice
(DESIGN CHOICE, log 5). -/
def Obligations.WrittenOutWordsDecode : Prop :=
  decodeHost 0x00000000#32 = .rsvd 0#30 ∧
  decodeHost 0xFFFFFFFD#32 = .init 0x3FFFFFFF#30 ∧
  decodeHost 0x00000006#32 = .write 1#30 ∧
  decodeHost 0x00000003#32 = .read 0#30 ∧
  decodeFrame [0x01#8, 0x40#8] = .ok (.wrmr 0b01#2 0#6) ∧
  decodeFrame [0x02#8, 0x01#8, 0xFF#8, 0xFF#8, 0x26#8] = .ok (.wireWrite 0x01FFFF#24 0x26#8) ∧
  decodeFrame [0x03#8, 0x00#8, 0x01#8, 0xF4#8, 0x00#8] = .ok (.wireRead 0x0001F4#24 0x00#8) ∧
  decodeFrame [0x05#8] = .ok (.rdmr []) ∧
  decodeFrame [0x3B#8, 0x12#8] = .ok (.edio [0x12#8]) ∧
  decodeFrame [0x38#8] = .ok (.eqio []) ∧
  decodeFrame [0xFF#8] = .ok (.rstio []) ∧
  decodeFrame [0x04#8] = .rejected (.unknownOpcode 0x04#8)

/-- Decode and encode agree, in both directions, at both levels (R81, R82, R85 to R88): no bit of an encoding is dropped. Of all
instructions only a mode frame whose reserved bits are not 0 is rejected, by name: that this decoder rejects those (I6), and accepts a
MODE other than 0b00, whose refusal (I7) it leaves to the decoder of wire traces, is the model's choice (DESIGN CHOICE, log 5); so is
that it accepts any `A[23:17]` and any read fill (DESIGN CHOICE, log 19). -/
def Obligations.DecodeEncodeAgree : Prop :=
  (∀ i : Instr, i.reservedModeBitsZero = true → decode (encode i) = .ok i) ∧
  (∀ (mode : BitVec 2) (rsv : BitVec 6), rsv ≠ 0#6 →
    decode (encode (.wrmr mode rsv)) = .rejected (.reservedModeBits (mode ++ rsv))) ∧
  (∀ w : Word, encode (decodeHost w) = .word w) ∧
  (∀ (bytes : List Byte) (i : Instr), decodeFrame bytes = .ok i → encode i = .frame bytes)

/-- R83: a CMD word decodes by OP alone; two words with the same `CMD[1:0]` act alike in every state. -/
def Obligations.CmdUpperBitsIgnored : Prop :=
  ∀ (w w' : Word) (s : State), w.extractLsb' 0 2 = w'.extractLsb' 0 2 → exec (decodeHost w) s = exec (decodeHost w') s

/-- The bytes the programs of INIT, WRITE and READ send are frames with the opcodes 0x01, 0x02 and 0x03, the mode byte 0x00 and
`A = zext_24(ADDR[16:0])` (R52, R53, R85 to R87, R95), and a decoder of wire traces reads them as such (R164). -/
def Obligations.ProgramsSendTheirFrames : Prop :=
  decodeTraceFrame (programBytes initProgram) = .ok (.wrmr 0#2 0#6) ∧
  (Instr.wrmr 0#2 0#6).emittedByBlock = true ∧
  (∀ (a : BitVec 17) (v : Byte),
    decodeTraceFrame (programBytes (writeProgram a v)) = .ok (.wireWrite (a.setWidth 24) v) ∧
    (Instr.wireWrite (a.setWidth 24) v).emittedByBlock = true) ∧
  (∀ a : BitVec 17,
    decodeTraceFrame (programBytes (readProgram a)) = .ok (.wireRead (a.setWidth 24) 0x00#8) ∧
    (Instr.wireRead (a.setWidth 24) 0x00#8).emittedByBlock = true)

/-- The decoder of wire traces accepts a frame exactly when it is one of the opcodes 0x01, 0x02 and 0x03, a mode frame only with the
mode byte 0x00; it refuses 0x05, 0x3B, 0x38 and 0xFF (R164 to R167, I8) and every other mode byte (R95, R168, I6, I7). That it refuses neither `A[23:17]` nor a read fill
that are not 0 is the model's choice (DESIGN CHOICE, log 19). -/
def Obligations.TraceDecoderRefusesUnusedOpcodes : Prop :=
  ∀ (bytes : List Byte) (i : Instr),
    decodeTraceFrame bytes = .ok i ↔
      decodeFrame bytes = .ok i ∧ (bytes = [0x01#8, 0x00#8] ∨ bytes.head? = some 0x02#8 ∨ bytes.head? = some 0x03#8)

/-- R119: `enc3` yields exactly 3 bytes, the first 0x00 or 0x01, with inverse `b0 * 65536 + b1 * 256 + b2`, and the document's
values. -/
def Obligations.AddressEncoderProperties : Prop :=
  (∀ a : BitVec 17, ∃ b0 b1 b2 : Byte, enc3 a = [b0, b1, b2] ∧ (b0 = 0x00#8 ∨ b0 = 0x01#8) ∧
    a.toNat = b0.toNat * 65536 + b1.toNat * 256 + b2.toNat) ∧
  (∀ a a' : BitVec 17, enc3 a = enc3 a' → a = a') ∧
  enc3 0#17 = [0x00#8, 0x00#8, 0x00#8] ∧ enc3 131071#17 = [0x01#8, 0xFF#8, 0xFF#8] ∧ enc3 500#17 = [0x00#8, 0x01#8, 0xF4#8]

/-! ## The step and the host's registers -/

/-- A step runs the decoded instruction (the queue of moves is the model's own, log 7): a CMD write at the head of the queue is
`exec` of the instruction its word names (R13, R140), a frame at the device's pins is `exec` of the instruction it decodes to (that
such a frame is an instruction is the model's reading, DEDUCED, log 5); each in the state whose queue has moved on. Third clause:
where `decodeTableWord` reads an instruction from a word of the opcode table, a step of the state `withFetchWord` gives is `exec` of
it (how the table's words are laid out is the model's choice, log 6). -/
def Obligations.StepRunsDecodedInstruction : Prop :=
  (∀ (s : State) (w : Word) (rest : List Turn), s.env.turns = .host (.write s.params.base 4 w) :: rest →
    step s = exec (decodeHost w) { s with env := { s.env with turns := rest } }) ∧
  (∀ (s : State) (bytes : List Byte) (i : Instr) (rest : List Turn), s.env.turns = .frame bytes :: rest →
    decodeFrame bytes = .ok i → step s = exec i { s with env := { s.env with turns := rest } }) ∧
  (∀ (s : State) (nbits w : Nat) (i : Instr), decodeTableWord nbits w = some i → step (s.withFetchWord nbits w) = exec i s)

/-- The controller's move is its step (R15, R120); with nothing queued the controller moves (log 7), and idle it has no step (R212). -/
def Obligations.StepRunsController : Prop :=
  (∀ (s : State) (rest : List Turn), s.env.turns = .controller :: rest →
    step s = controllerStep { s with env := { s.env with turns := rest } }) ∧
  (∀ s : State, s.env.turns = [] → step s = controllerStep s) ∧
  (∀ s : State, s.Inv → s.blk.status.busy = false → controllerStep s = .next s)

/-- The layout of STATUS (R25 to R35): each flag at its bit, the error flags at their cause codes (R45, R180), `STATUS[31:10]` 0. -/
def Obligations.StatusWordLayout : Prop :=
  ∀ st : Status,
    st.word.getLsbD 0 = st.busy ∧ st.word.getLsbD 1 = st.init ∧ st.word.getLsbD 2 = st.errAddr ∧
    st.word.getLsbD 3 = st.errValue ∧ st.word.getLsbD 4 = st.errNoinit ∧ st.word.getLsbD 5 = st.errXport ∧
    st.word.getLsbD 6 = st.errCmd ∧ st.word.getLsbD 7 = st.errBusy ∧ st.word.getLsbD 8 = st.csLevel ∧
    st.word.getLsbD 9 = st.csOe ∧ (∀ e : Err, st.word.getLsbD e.code = st.flag e) ∧ st.word.extractLsb' 10 22 = 0#22

/-- R36: the reserved offsets read 0 and ignore writes, with no side effect; the host's own record of what it read is all that
changes (log 7). -/
def Obligations.ReservedOffsetsReadZero : Prop :=
  ∀ (s : State) (off : Nat) (v : Word) (rest : List Turn), off = 0x14 ∨ off = 0x18 ∨ off = 0x1C →
    (s.env.turns = .host (.read (s.params.base + off) 4) :: rest →
      step s = .next { s with env := { s.env with turns := rest, hostRd := 0x00000000#32 } }) ∧
    (s.env.turns = .host (.write (s.params.base + off) 4 v) :: rest →
      step s = .next { s with env := { s.env with turns := rest } })

/-- The register map read (R20 to R25, R59): CMD reads 0, ADDR, WDATA, RDATA and STATUS their values; a read has no side effect. -/
def Obligations.RegisterReads : Prop :=
  ∀ (s : State) (off : Nat) (v : Word) (rest : List Turn),
    (off, v) ∈ [(0x00, 0x00000000#32), (0x04, s.blk.addr), (0x08, s.blk.wdata), (0x0C, s.blk.rdata), (0x10, s.blk.status.word)] →
    s.env.turns = .host (.read (s.params.base + off) 4) :: rest →
    step s = .next { s with env := { s.env with turns := rest, hostRd := v } }

/-- The register map written (R20, R22 to R24): ADDR and WDATA take all 32 bits, at any time and with no check; RDATA and STATUS
ignore the write. -/
def Obligations.RegisterWrites : Prop :=
  ∀ (s : State) (v : Word) (rest : List Turn),
    (s.env.turns = .host (.write (s.params.base + 0x04) 4 v) :: rest →
      step s = .next { s with blk := { s.blk with addr := v }, env := { s.env with turns := rest } }) ∧
    (s.env.turns = .host (.write (s.params.base + 0x08) 4 v) :: rest →
      step s = .next { s with blk := { s.blk with wdata := v }, env := { s.env with turns := rest } }) ∧
    (s.env.turns = .host (.write (s.params.base + 0x0C) 4 v) :: rest →
      step s = .next { s with env := { s.env with turns := rest } }) ∧
    (s.env.turns = .host (.write (s.params.base + 0x10) 4 v) :: rest →
      step s = .next { s with env := { s.env with turns := rest } })

/-- R56: an access that reaches the window and is of another width, begins below it, or stands at an offset that is no multiple of 4, has
no step: the host agent is stuck. -/
def Obligations.AccessOutsideContractIsStuck : Prop :=
  ∀ (s : State) (addr width : Nat) (v : Word) (rest : List Turn),
    addr < s.params.base + 0x20 → s.params.base < addr + max 1 width →
    width ≠ 4 ∨ addr < s.params.base ∨ (addr - s.params.base) % 4 ≠ 0 →
    (s.env.turns = .host (.read addr width) :: rest → step s = .fault .hostAccessOutsideContract) ∧
    (s.env.turns = .host (.write addr width v) :: rest → step s = .fault .hostAccessOutsideContract)

/-- The pseudo-instruction WAIT (R97): one round reads STATUS, and goes round again exactly while BUSY = 1; that the controller moves
between two rounds is the model's choice (log 7). -/
def Obligations.WaitPollsStatus : Prop :=
  ∀ (s : State) (rest : List Turn), s.env.turns = .wait :: rest →
    (s.blk.status.busy = true → step s = .next { s with env := { s.env with
      hostRd := s.blk.status.word, turns := .controller :: .wait :: rest } }) ∧
    (s.blk.status.busy = false → step s = .next { s with env := { s.env with hostRd := s.blk.status.word, turns := rest } })

/-- R147: the controller never reads ADDR or WDATA: written while a command runs, they change, and every action is performed as
before. What a command sends is fixed at accept (WriteAccepted, ReadAccepted). -/
def Obligations.OperandsLatchedAtAccept : Prop :=
  ∀ (s : State) (a v : Word),
    (∀ t : State, controllerStep s = .next t →
      controllerStep { s with blk := { s.blk with addr := a, wdata := v } } =
        .next { t with blk := { t.blk with addr := a, wdata := v } }) ∧
    (∀ f : Fault, controllerStep s = .fault f →
      controllerStep { s with blk := { s.blk with addr := a, wdata := v } } = .fault f)

/-! ## The host commands -/

/-- R142, R184: RSVD sets ERR_CMD, and accept cleared the other flags; nothing else changes. A CMD word with `OP = 0b00` is RSVD.
While BUSY = 1 it sets ERR_BUSY and not ERR_CMD. -/
def Obligations.RsvdSetsErrCmd : Prop :=
  (∀ w : Word, w.extractLsb' 0 2 = 0b00#2 → ∃ r, decodeHost w = .rsvd r) ∧
  (∀ (r : BitVec 30) (s : State), s.blk.status.busy = false →
    exec (.rsvd r) s = .next { s with blk := { s.blk with status := { s.blk.status with
      errAddr := false, errValue := false, errNoinit := false, errXport := false, errCmd := true, errBusy := false } } }) ∧
  (∀ (r : BitVec 30) (s : State), s.blk.status.busy = true →
    exec (.rsvd r) s = .next { s with blk := { s.blk with status := { s.blk.status with errBusy := true } } })

/-- R146: a CMD write while BUSY = 1 is dropped, whatever it names: ERR_BUSY is set and nothing else changes. -/
def Obligations.BusyDropsEveryCommand : Prop :=
  ∀ (w : Word) (s : State), s.blk.status.busy = true →
    exec (decodeHost w) s = .next { s with blk := { s.blk with status := { s.blk.status with errBusy := true } } }

/-- INIT accepted (R140, R143): the error flags and STATUS.INIT are cleared, the program of nine actions is in SEQ and BUSY is set;
nothing else changes. -/
def Obligations.InitAccepted : Prop :=
  ∀ (r : BitVec 30) (s : State), s.blk.status.busy = false →
    exec (.init r) s = .next { s with blk := { s.blk with
      curOp := .init
      seq := [.oe, .cs true, .cs false, .cs true, .cs false, .xfer 0x01#8 false, .xfer 0x00#8 false, .cs true, .settle]
      seqPc := 0
      status := { s.blk.status with
        busy := true, init := false
        errAddr := false, errValue := false, errNoinit := false, errXport := false, errCmd := false, errBusy := false } } }

/-- WRITE accepted with every check passed (R140, R141, R144): the program holds the frame of ADDR and WDATA, the address bytes
most-significant first, and BUSY is set; nothing else changes. -/
def Obligations.WriteAccepted : Prop :=
  ∀ (r : BitVec 30) (s : State), s.blk.status.busy = false → s.blk.status.init = true →
    s.blk.addr.toNat ≤ 131071 → s.blk.wdata.toNat ≤ 255 →
    exec (.write r) s = .next { s with blk := { s.blk with
      curOp := .write
      seq := [.cs false, .xfer 0x02#8 false, .xfer (BitVec.ofNat 8 (s.blk.addr.toNat / 65536)) false,
        .xfer (BitVec.ofNat 8 (s.blk.addr.toNat / 256)) false, .xfer (BitVec.ofNat 8 s.blk.addr.toNat) false,
        .xfer (BitVec.ofNat 8 s.blk.wdata.toNat) false, .cs true]
      seqPc := 0
      status := { s.blk.status with
        busy := true
        errAddr := false, errValue := false, errNoinit := false, errXport := false, errCmd := false, errBusy := false } } }

/-- READ accepted with every check passed (R140, R141, R145): WDATA is not checked; the response exchange sends 0x00 and captures;
nothing else changes. -/
def Obligations.ReadAccepted : Prop :=
  ∀ (r : BitVec 30) (s : State), s.blk.status.busy = false → s.blk.status.init = true → s.blk.addr.toNat ≤ 131071 →
    exec (.read r) s = .next { s with blk := { s.blk with
      curOp := .read
      seq := [.cs false, .xfer 0x03#8 false, .xfer (BitVec.ofNat 8 (s.blk.addr.toNat / 65536)) false,
        .xfer (BitVec.ofNat 8 (s.blk.addr.toNat / 256)) false, .xfer (BitVec.ofNat 8 s.blk.addr.toNat) false,
        .xfer 0x00#8 true, .cs true]
      seqPc := 0
      status := { s.blk.status with
        busy := true
        errAddr := false, errValue := false, errNoinit := false, errXport := false, errCmd := false, errBusy := false } } }

/-- WRITE that fails a check (R141, R144, R186): every applicable flag is set in the accept step, none of the others, and nothing
else changes. -/
def Obligations.WriteRefusedByChecks : Prop :=
  ∀ (r : BitVec 30) (s : State), s.blk.status.busy = false →
    (s.blk.status.init = false ∨ 131071 < s.blk.addr.toNat ∨ 255 < s.blk.wdata.toNat) →
    exec (.write r) s = .next { s with blk := { s.blk with status := { s.blk.status with
      errAddr := decide (131071 < s.blk.addr.toNat), errValue := decide (255 < s.blk.wdata.toNat)
      errNoinit := !s.blk.status.init, errXport := false, errCmd := false, errBusy := false } } }

/-- READ that fails a check (R141, R145, R186): ERR_VALUE is never set. -/
def Obligations.ReadRefusedByChecks : Prop :=
  ∀ (r : BitVec 30) (s : State), s.blk.status.busy = false →
    (s.blk.status.init = false ∨ 131071 < s.blk.addr.toNat) →
    exec (.read r) s = .next { s with blk := { s.blk with status := { s.blk.status with
      errAddr := decide (131071 < s.blk.addr.toNat), errValue := false
      errNoinit := !s.blk.status.init, errXport := false, errCmd := false, errBusy := false } } }

/-- R140: every accepted command either starts a program, setting BUSY with every error flag clear, or sets at least one error flag
and leaves BUSY = 0; nothing is issued on the bus in the accept step. -/
def Obligations.AcceptStartsOrFlags : Prop :=
  ∀ (w : Word) (s : State), s.blk.status.busy = false →
    ∃ t, exec (decodeHost w) s = .next t ∧
      ((t.blk.status.busy = true ∧ t.blk.seqPc = 0 ∧ t.blk.seq ≠ [] ∧ ∀ e, t.blk.status.flag e = false) ∨
        (t.blk.status.busy = false ∧ ∃ e, t.blk.status.flag e = true)) ∧
      t.blk.trace = s.blk.trace ∧ t.dev = s.dev

/-- The frame of the host commands RSVD, INIT, WRITE and READ, whether accepted, refused or dropped (R140 to R147, R181): of the block
only SEQ, SEQ_PC, CUR_OP, BUSY, the error flags and STATUS.INIT may change, STATUS.INIT by INIT only and only to 0; the
parameters, the environment, the device's responsiveness and mode and every cell of the attached memory are left alone. -/
def Obligations.HostCommandsFrame : Prop :=
  ∀ (w : Word) (s t : State), exec (decodeHost w) s = .next t →
    t.params = s.params ∧ t.env = s.env ∧ t.blk.addr = s.blk.addr ∧ t.blk.wdata = s.blk.wdata ∧ t.blk.rdata = s.blk.rdata ∧
    t.blk.capture = s.blk.capture ∧ t.blk.ser = s.blk.ser ∧ t.blk.settleCnt = s.blk.settleCnt ∧
    t.blk.xferIdx = s.blk.xferIdx ∧ t.blk.trace = s.blk.trace ∧
    t.blk.status.csLevel = s.blk.status.csLevel ∧ t.blk.status.csOe = s.blk.status.csOe ∧
    (t.blk.status.init = s.blk.status.init ∨ (t.blk.status.init = false ∧ w.extractLsb' 0 2 = 0b01#2)) ∧
    t.dev.resp = s.dev.resp ∧ t.dev.modeIsByte = s.dev.modeIsByte ∧ ∀ a, t.dev.cell a = s.dev.cell a

/-- R181: a WRITE or READ that raises ERR_ADDR, ERR_VALUE or ERR_NOINIT emits no trace event and leaves CS, SEQ, SEQ_PC, RDATA,
STATUS.INIT and the attached device unchanged; the only change is in the error flags: the accept cleared them and the applicable
ones are set. -/
def Obligations.ValidationErrorsAreSilent : Prop :=
  ∀ (r : BitVec 30) (i : Instr) (s t : State), i = .write r ∨ i = .read r → s.blk.status.busy = false →
    exec i s = .next t →
    (t.blk.status.errAddr = true ∨ t.blk.status.errValue = true ∨ t.blk.status.errNoinit = true) →
    t = { s with blk := { s.blk with status := t.blk.status } } ∧
    t.blk.status.busy = false ∧ t.blk.status.init = s.blk.status.init ∧ t.blk.status.csLevel = s.blk.status.csLevel ∧
    t.blk.status.csOe = s.blk.status.csOe ∧ t.blk.status.errXport = false ∧ t.blk.status.errCmd = false ∧
    t.blk.status.errBusy = false ∧ (t.blk.status.errAddr = true ↔ 131071 < s.blk.addr.toNat) ∧
    (t.blk.status.errValue = true ↔ i = .write r ∧ 255 < s.blk.wdata.toNat) ∧
    (t.blk.status.errNoinit = true ↔ s.blk.status.init = false)

/-! ## The frame engine -/

/-- `A_OE` and `A_CS(l)` (R111, R112): the pad's output enable and the latch are written and the event recorded; the device sees an
edge only where the pad is driven and the level changes; operands, capture, serializer and error flags are left alone. -/
def Obligations.PinActionsWritePad : Prop :=
  (∀ s : State, s.blk.nextAction = some .oe → s.blk.status.csLevel = true →
    ∃ t, controllerStep s = .next t ∧ t.blk.status.csOe = true ∧ t.blk.status.csLevel = true ∧
      t.blk.trace = s.blk.trace ++ [.oe] ∧ t.dev = s.dev ∧ t.env = s.env ∧ t.params = s.params ∧
      t.blk.seqPc = s.blk.seqPc + 1 ∧ t.blk.seq = s.blk.seq ∧ t.blk.addr = s.blk.addr ∧ t.blk.wdata = s.blk.wdata ∧
      t.blk.capture = s.blk.capture ∧ t.blk.ser = s.blk.ser ∧ ∀ e, t.blk.status.flag e = s.blk.status.flag e) ∧
  (∀ (s : State) (l : Bool), s.blk.nextAction = some (.cs l) →
    ∃ t, controllerStep s = .next t ∧ t.blk.status.csLevel = l ∧ t.blk.status.csOe = s.blk.status.csOe ∧
      t.blk.trace = s.blk.trace ++ [.cs l] ∧ t.env = s.env ∧ t.params = s.params ∧
      t.dev = (if s.blk.status.csOe = true ∧ s.blk.status.csLevel = true ∧ l = false then s.dev.csFall
        else if s.blk.status.csOe = true ∧ s.blk.status.csLevel = false ∧ l = true then s.dev.csRise
        else s.dev) ∧
      t.blk.seqPc = s.blk.seqPc + 1 ∧ t.blk.seq = s.blk.seq ∧ t.blk.addr = s.blk.addr ∧ t.blk.wdata = s.blk.wdata ∧
      t.blk.capture = s.blk.capture ∧ t.blk.ser = s.blk.ser ∧ ∀ e, t.blk.status.flag e = s.blk.status.flag e)

/-- `A_XFER(tx, cap)` that does not fault (R113, R114, R124): the event `X(tx, rx)`, `rx` the byte the device drives (R70), the received
byte captured only with `cap = 1`, the eight bits of `tx` clocked into the device, and the serializer left with `BITS = 8`, SCK = 0
and MOSI = `tx[0]`. That SCK idles at 0 and bits go most-significant first is general knowledge in the spec (PRESUMED, log 17); where
the draws come from, and that one is used up, is the model's choice (log 2). -/
def Obligations.ExchangeWithoutFault : Prop :=
  ∀ (s : State) (tx : Byte) (cap : Bool), s.blk.nextAction = some (.xfer tx cap) →
    s.blk.status.csLevel = false → s.blk.status.csOe = true → s.faultsAt 0 = false →
    ∃ t rx, controllerStep s = .next t ∧ t.blk.trace = s.blk.trace ++ [.x tx rx] ∧
      rx = s.dev.drives (s.drawAt 0).miso ∧ t.dev = Device.clockIn 8 tx s.dev ∧
      t.blk.capture = (if cap = true then rx else s.blk.capture) ∧
      (s.dev.resp = .unknown ∨ s.dev.resp = .asleep → rx = (s.drawAt 0).miso) ∧
      t.blk.ser = { txSh := 0x00#8, rxSh := rx, bits := 8, sck := false, mosi := tx.getLsbD 0 } ∧
      t.blk.xferIdx = s.blk.xferIdx + 1 ∧ t.blk.seqPc = s.blk.seqPc + 1 ∧ t.blk.seq = s.blk.seq ∧
      t.blk.addr = s.blk.addr ∧ t.blk.wdata = s.blk.wdata ∧ t.blk.status.csLevel = false ∧ t.blk.status.csOe = true ∧
      (∀ e, t.blk.status.flag e = s.blk.status.flag e) ∧ ∀ k, t.drawAt k = s.drawAt (k + 1)

/-- The serializer at the bit level (R55, R89, R114): after `n` of the eight periods of SCK, `BITS = n`, MOSI carries bit `8 - n` of
the byte sent, `TX_SH` and `RX_SH` have moved `n` places, SCK is 0, and the device has sampled the first `n` bits. The reading
of mode 0 and the bit order are the spec's own, from general knowledge (G1, G2; log 17). -/
def Obligations.SerializerBitByBit : Prop :=
  ∀ (n : Nat) (tx miso : Byte) (ser : Serializer) (d : Device), 0 < n → n ≤ 8 →
    let r := clockBits n miso (ser.load tx, d)
    r.1.bits = n ∧ r.1.sck = false ∧ r.1.mosi = tx.getLsbD (8 - n) ∧ r.1.txSh = tx <<< n ∧
    r.1.rxSh = miso >>> (8 - n) ∧ r.2 = Device.clockIn n tx d

/-- R122: a transport fault releases CS, skips every remaining action, sets ERR_XPORT and clears BUSY; STATUS.INIT, RDATA, the
operands and the other flags keep their values, and the device is `Unknown` from here on (R71; that this covers a device that sleeps
is DEDUCED, log 10). -/
def Obligations.TransportFaultAborts : Prop :=
  ∀ (s : State) (tx : Byte) (cap : Bool), s.blk.nextAction = some (.xfer tx cap) →
    s.blk.status.csLevel = false → s.blk.status.csOe = true → s.faultsAt 0 = true →
    ∃ t, controllerStep s = .next t ∧ t.blk.trace = s.blk.trace ++ [.xf tx, .cs true] ∧
      t.blk.seqPc = s.blk.seq.length ∧ t.blk.seq = s.blk.seq ∧ t.blk.curOp = s.blk.curOp ∧
      t.blk.status = { s.blk.status with csLevel := true, errXport := true, busy := false } ∧
      t.blk.rdata = s.blk.rdata ∧ t.blk.capture = s.blk.capture ∧ t.blk.addr = s.blk.addr ∧ t.blk.wdata = s.blk.wdata ∧
      t.blk.ser.bits < 8 ∧ t.dev.resp = .unknown

/-- Completion (R121): an action performed without a fault advances SEQ_PC by one (R120); the last one of a program clears BUSY, sets
STATUS.INIT for INIT and writes `zext_32(CAPTURE)` to RDATA for READ; no error flag is written. Before the last action none of
the three changes. -/
def Obligations.CompletionByCurOp : Prop :=
  ∀ (s t : State) (a : Action), s.blk.nextAction = some a → (∀ tx cap, a = .xfer tx cap → s.faultsAt 0 = false) →
    controllerStep s = .next t →
    t.blk.seq = s.blk.seq ∧ t.blk.seqPc = s.blk.seqPc + 1 ∧ t.blk.curOp = s.blk.curOp ∧
    (∀ e, t.blk.status.flag e = s.blk.status.flag e) ∧
    (s.blk.seqPc + 1 = s.blk.seq.length →
      t.blk.status.busy = false ∧
      t.blk.status.init = (if s.blk.curOp = .init then true else s.blk.status.init) ∧
      t.blk.rdata = (if s.blk.curOp = .read then t.blk.capture.setWidth 32 else s.blk.rdata)) ∧
    (s.blk.seqPc + 1 ≠ s.blk.seq.length →
      t.blk.status.busy = s.blk.status.busy ∧ t.blk.status.init = s.blk.status.init ∧ t.blk.rdata = s.blk.rdata)

/-- The settle counter (R41, R117): it is loaded with `ceil(P_SETTLE_US * P_F_CLK / 10^6)` when the action begins, counts down by one
a clock, and the action ends, with its event, when the count reaches 0. -/
def Obligations.SettleCounterCountsClocks : Prop :=
  (∀ p : Params, p.settleUs * p.fClk ≤ 1000000 * settleLoad p ∧ 1000000 * settleLoad p < p.settleUs * p.fClk + 1000000) ∧
  (∀ s : State, s.blk.nextAction = some .settle → s.blk.settleCnt = 0 → 0 < settleLoad s.params →
    clockStep s = .next { s with blk := { s.blk with settleCnt := settleLoad s.params } }) ∧
  (∀ s : State, s.blk.nextAction = some .settle → 1 < s.blk.settleCnt →
    clockStep s = .next { s with blk := { s.blk with settleCnt := s.blk.settleCnt - 1 } }) ∧
  (∀ s : State, s.blk.nextAction = some .settle → s.blk.settleCnt = 1 → s.blk.status.csLevel = true →
    clockStep s = controllerStep s ∧
    ∃ t, clockStep s = .next t ∧ t.blk.settleCnt = 0 ∧ t.blk.trace = s.blk.trace ++ [.settle] ∧
      t.blk.seqPc = s.blk.seqPc + 1)

/-! ## Whole commands -/

/-- INIT runs to completion (R120, R121, R143): from an idle block, without a fault, nine controller steps perform the pulse, the
mode-set frame and the settle, and leave STATUS 0x00000302; the operands and RDATA are unchanged, and a device that is not
`Unknown` is responsive in Byte mode with its cells unchanged (R67, R68). -/
def Obligations.InitRunsToCompletion : Prop :=
  ∀ (r : BitVec 30) (s : State), s.Inv → s.blk.status.busy = false → s.noFault 2 →
    ∃ s1 t r0 r1, exec (.init r) s = .next s1 ∧ runController 9 s1 = .next t ∧
      t.blk.trace = s.blk.trace ++
        [.oe, .cs true, .cs false, .cs true, .cs false, .x 0x01#8 r0, .x 0x00#8 r1, .cs true, .settle] ∧
      t.blk.status.word = 0x00000302#32 ∧ t.blk.addr = s.blk.addr ∧ t.blk.wdata = s.blk.wdata ∧ t.blk.rdata = s.blk.rdata ∧
      (s.dev.resp ≠ .unknown → t.dev.resp = .responsive ∧ t.dev.modeIsByte = true ∧ ∀ a, t.dev.cell a = s.dev.cell a)

/-- WRITE runs to completion (R120, R121, R144): without a fault, seven controller steps emit the five-byte frame within one low
level of CS and leave STATUS 0x00000302; RDATA is unchanged. A device in Byte mode holds the value in the addressed cell, and
every other cell as before (R69). -/
def Obligations.WriteRunsToCompletion : Prop :=
  ∀ (r : BitVec 30) (s : State), s.Inv → s.blk.status.busy = false → s.blk.status.init = true →
    s.blk.addr.toNat ≤ 131071 → s.blk.wdata.toNat ≤ 255 → s.noFault 5 →
    ∃ s1 t r0 r1 r2 r3 r4, exec (.write r) s = .next s1 ∧ runController 7 s1 = .next t ∧
      t.blk.trace = s.blk.trace ++
        [.cs false, .x 0x02#8 r0, .x (BitVec.ofNat 8 (s.blk.addr.toNat / 65536)) r1,
          .x (BitVec.ofNat 8 (s.blk.addr.toNat / 256)) r2, .x (BitVec.ofNat 8 s.blk.addr.toNat) r3,
          .x (BitVec.ofNat 8 s.blk.wdata.toNat) r4, .cs true] ∧
      t.blk.status.word = 0x00000302#32 ∧ t.blk.addr = s.blk.addr ∧ t.blk.wdata = s.blk.wdata ∧ t.blk.rdata = s.blk.rdata ∧
      (s.dev.resp = .responsive → s.dev.modeIsByte = true →
        t.dev.resp = .responsive ∧ t.dev.modeIsByte = true ∧
        t.dev.cell s.blk.addr.toNat = BitVec.ofNat 8 s.blk.wdata.toNat ∧
        ∀ a, a ≠ s.blk.addr.toNat → t.dev.cell a = s.dev.cell a)

/-- READ runs to completion (R120, R121, R145): without a fault, seven controller steps emit the header and receive the response
within one low level of CS, RDATA is the byte received, zero-extended, and STATUS is 0x00000302. A device in Byte mode answers
the addressed cell and changes none (R70); an `Unknown` one answers whatever the draw says (R71, I3). -/
def Obligations.ReadRunsToCompletion : Prop :=
  ∀ (r : BitVec 30) (s : State), s.Inv → s.blk.status.busy = false → s.blk.status.init = true →
    s.blk.addr.toNat ≤ 131071 → s.noFault 5 →
    ∃ s1 t r0 r1 r2 r3 r4, exec (.read r) s = .next s1 ∧ runController 7 s1 = .next t ∧
      t.blk.trace = s.blk.trace ++
        [.cs false, .x 0x03#8 r0, .x (BitVec.ofNat 8 (s.blk.addr.toNat / 65536)) r1,
          .x (BitVec.ofNat 8 (s.blk.addr.toNat / 256)) r2, .x (BitVec.ofNat 8 s.blk.addr.toNat) r3, .x 0x00#8 r4, .cs true] ∧
      t.blk.status.word = 0x00000302#32 ∧ t.blk.addr = s.blk.addr ∧ t.blk.wdata = s.blk.wdata ∧
      t.blk.rdata = r4.setWidth 32 ∧ t.blk.capture = r4 ∧
      (s.dev.resp = .unknown → r4 = (s.drawAt 4).miso) ∧
      (s.dev.resp = .responsive → s.dev.modeIsByte = true →
        r4 = s.dev.cell s.blk.addr.toNat ∧ t.dev.resp = .responsive ∧ t.dev.modeIsByte = true ∧
        ∀ a, t.dev.cell a = s.dev.cell a)

/-- A transport fault at exchange `k` of a WRITE or READ (R122, R144, R145, R187): the exchanges before it are on the wire, then
`XF`, then CS is released; STATUS is 0x00000322 and RDATA keeps its value. -/
def Obligations.FaultDuringFrame : Prop :=
  ∀ (r : BitVec 30) (i : Instr) (op v : Byte) (s : State) (k : Nat),
    (i = .write r ∧ op = 0x02#8 ∧ v = BitVec.ofNat 8 s.blk.wdata.toNat ∧ s.blk.wdata.toNat ≤ 255) ∨
      (i = .read r ∧ op = 0x03#8 ∧ v = 0x00#8) →
    s.Inv → s.blk.status.busy = false → s.blk.status.init = true → s.blk.addr.toNat ≤ 131071 →
    k < 5 → s.noFault k → s.faultsAt k = true →
    ∃ s1 t es, exec i s = .next s1 ∧ runController (k + 2) s1 = .next t ∧
      t.blk.trace = s.blk.trace ++ .cs false :: (es ++
        [.xf ([op, BitVec.ofNat 8 (s.blk.addr.toNat / 65536), BitVec.ofNat 8 (s.blk.addr.toNat / 256),
          BitVec.ofNat 8 s.blk.addr.toNat, v].getD k 0x00#8), .cs true]) ∧
      es.length = k ∧
      sentBytes es = [op, BitVec.ofNat 8 (s.blk.addr.toNat / 65536), BitVec.ofNat 8 (s.blk.addr.toNat / 256),
        BitVec.ofNat 8 s.blk.addr.toNat, v].take k ∧
      t.blk.status.word = 0x00000322#32 ∧ t.blk.rdata = s.blk.rdata ∧ t.dev.resp = .unknown

/-- A transport fault during INIT, at the opcode (`k = 0`) or the mode byte (`k = 1`) (R122, R143): no settle follows, STATUS.INIT
stays 0 and STATUS is 0x00000320. -/
def Obligations.FaultDuringInit : Prop :=
  ∀ (r : BitVec 30) (s : State) (k : Nat), s.Inv → s.blk.status.busy = false →
    k < 2 → s.noFault k → s.faultsAt k = true →
    ∃ s1 t es, exec (.init r) s = .next s1 ∧ runController (k + 6) s1 = .next t ∧
      t.blk.trace = s.blk.trace ++
        ([.oe, .cs true, .cs false, .cs true, .cs false] ++ es ++ [.xf ([0x01#8, 0x00#8].getD k 0x00#8), .cs true]) ∧
      es.length = k ∧ sentBytes es = [0x01#8, 0x00#8].take k ∧
      t.blk.status.word = 0x00000320#32 ∧ t.blk.rdata = s.blk.rdata

/-- Every running command ends (R64, R120, R189, R193): a state with BUSY = 1 is never final (R224), and within nine controller steps
BUSY is 0, CS is high and the program is at its end, faults or not. -/
def Obligations.EveryCommandEnds : Prop :=
  ∀ s : State, s.Inv → s.blk.status.busy = true →
    s.runEnded = false ∧ ∃ n t, n ≤ 9 ∧ runController n s = .next t ∧ t.blk.status.busy = false ∧ t.blk.status.csLevel = true ∧
      t.blk.seqPc = t.blk.seq.length

/-- R73, the round-trip law: on an initialized block with a responsive device in Byte mode, the host writes `a` to ADDR, `v` to WDATA
and WRITE to CMD, later READ to CMD, and reads `v` from RDATA, with any moves between the two commands that reach neither the
device nor CMD nor ADDR, and no fault; the run then ends (R224). The seven controller moves of a command follow one another here: that
the host's accesses during a command do not reach it is OperandsLatchedAtAccept and BusyDropsEveryCommand. -/
def Obligations.RoundTripLaw : Prop :=
  ∀ (s : State) (a v w w' : Word) (between : List Turn), s.Inv → s.blk.status.busy = false → s.blk.status.init = true →
    s.dev.resp = .responsive → s.dev.modeIsByte = true →
    a.toNat ≤ 131071 → v.toNat ≤ 255 → w.extractLsb' 0 2 = 0b10#2 → w'.extractLsb' 0 2 = 0b11#2 →
    (∀ t ∈ between, s.harmless t = true) → s.noFault 10 →
    s.env.turns =
      [.host (.write (s.params.base + 0x04) 4 a), .host (.write (s.params.base + 0x08) 4 v),
        .host (.write s.params.base 4 w)] ++ List.replicate 7 .controller ++ between ++
      [.host (.write s.params.base 4 w')] ++ List.replicate 7 .controller ++ [.host (.read (s.params.base + 0x0C) 4)] →
    ∃ t, runSteps (3 + 7 + between.length + 1 + 7 + 1) s = .next t ∧ t.env.hostRd = v ∧ t.blk.rdata = v ∧
      t.blk.status.word = 0x00000302#32 ∧ t.env.turns = [] ∧ t.runEnded = true

/-- The frames the block emits act at the device as the frames of the wire level (R161 to R163): WRITE, READ and INIT, run to
completion without a fault, leave the device as `0x02`, `0x03` and, after INIT's pulse, `0x01` driven at its pins do. What a frame at
the pins does is the model's reading (DEDUCED, log 5); the devices are compared in all fields, those of an `Unknown` device too, which
are the model's own (DESIGN CHOICE, log 4). -/
def Obligations.BlockFramesActAsWireFrames : Prop :=
  ∀ (r : BitVec 30) (s : State), s.Inv → s.blk.status.busy = false → s.noFault 5 →
    (s.blk.status.init = true → s.blk.addr.toNat ≤ 131071 → s.blk.wdata.toNat ≤ 255 →
      ∃ s1 t u, exec (.write r) s = .next s1 ∧ runController 7 s1 = .next t ∧
        exec (.wireWrite (BitVec.ofNat 24 s.blk.addr.toNat) (BitVec.ofNat 8 s.blk.wdata.toNat)) s = .next u ∧ t.dev = u.dev) ∧
    (s.blk.status.init = true → s.blk.addr.toNat ≤ 131071 →
      ∃ s1 t u, exec (.read r) s = .next s1 ∧ runController 7 s1 = .next t ∧
        exec (.wireRead (BitVec.ofNat 24 s.blk.addr.toNat) 0x00#8) s = .next u ∧ t.dev = u.dev) ∧
    (∃ s1 t u, exec (.init r) s = .next s1 ∧ runController 9 s1 = .next t ∧
      exec (.wrmr 0#2 0#6) { s with dev := s.dev.csFall.csRise } = .next u ∧ t.dev = u.dev)

/-! ## The wire level -/

/-- The frame of the wire instructions: a frame driven at the device's pins leaves the block, the parameters and the queued moves
alone (R84; that nothing of it reaches the block is the model's choice, log 5). -/
def Obligations.WireFramesLeaveTheBlock : Prop :=
  ∀ (i : Instr) (s t : State), i.level = .wire → exec i s = .next t →
    t.blk = s.blk ∧ t.params = s.params ∧ t.env.turns = s.env.turns ∧ t.env.phy = s.env.phy ∧ t.env.runNo = s.env.runNo ∧
    t.env.hostRd = s.env.hostRd

/-- `0x01`, write-mode-register (R68, R161): with the mode byte 0x00 a responsive device takes Byte mode, every cell unchanged; any
other mode byte makes it `Unknown`, also one that the decoder rejects for its reserved bits (I6). That the block sees nothing of the
frame is the model's choice (DEDUCED, log 5). -/
def Obligations.ModeFrameSelectsByteMode : Prop :=
  (∀ (mode : BitVec 2) (rsv : BitVec 6) (s : State), s.blk.csLine = true → s.dev.resp = .responsive →
    ∃ t, exec (.wrmr mode rsv) s = .next t ∧ t.blk = s.blk ∧
      (mode = 0#2 ∧ rsv = 0#6 →
        t.dev.resp = .responsive ∧ t.dev.modeIsByte = true ∧ ∀ a, t.dev.cell a = s.dev.cell a) ∧
      (¬(mode = 0#2 ∧ rsv = 0#6) → t.dev.resp = .unknown)) ∧
  (∀ (m : Byte) (s : State) (more : List Turn), s.env.turns = .frame [0x01#8, m] :: more → m ≠ 0x00#8 →
    s.blk.csLine = true → s.dev.resp = .responsive →
    ∃ t, step s = .next t ∧ t.dev.resp = .unknown ∧ t.blk = s.blk)

/-- `0x02`, write (R69, R162): in Byte mode the cell `A[16:0]` takes the data byte, the top 7 address bits ignored, and every other
cell is unchanged; in another mode the device becomes `Unknown`. That the block sees nothing of the frame is the model's choice
(DEDUCED, log 5). -/
def Obligations.WriteFrameWritesCell : Prop :=
  ∀ (a : BitVec 24) (d : Byte) (s : State), s.blk.csLine = true → s.dev.resp = .responsive →
    ∃ t, exec (.wireWrite a d) s = .next t ∧ t.blk = s.blk ∧
      (s.dev.modeIsByte = true →
        t.dev.resp = .responsive ∧ t.dev.modeIsByte = true ∧ t.dev.cell (a.toNat % 131072) = d ∧
        ∀ x, x ≠ a.toNat % 131072 → t.dev.cell x = s.dev.cell x) ∧
      (s.dev.modeIsByte = false → t.dev.resp = .unknown)

/-- `0x03`, read (R70, R163): in Byte mode the device answers the cell `A[16:0]` in the fifth exchange, whatever is sent in it, and
changes no cell; in another mode it becomes `Unknown`. That the block sees nothing of the frame, and `Env.frameRx`, which holds the
bytes answered, are the model's (DEDUCED, log 5). -/
def Obligations.ReadFrameAnswersCell : Prop :=
  ∀ (a : BitVec 24) (fill : Byte) (s : State), s.blk.csLine = true → s.dev.resp = .responsive →
    ∃ t, exec (.wireRead a fill) s = .next t ∧ t.blk = s.blk ∧ t.env.frameRx.length = 5 ∧
      (s.dev.modeIsByte = true →
        t.env.frameRx[4]? = some (s.dev.cell (a.toNat % 131072)) ∧ t.dev.resp = .responsive ∧ t.dev.modeIsByte = true ∧
        ∀ x, t.dev.cell x = s.dev.cell x) ∧
      (s.dev.modeIsByte = false → t.dev.resp = .unknown)

/-- R72: the opcodes 0x05, 0x3B, 0x38 and 0xFF, and any byte that is no opcode, put a responsive device in `Unknown`; the block sees
nothing of it, which is the model's choice (DEDUCED, log 5). -/
def Obligations.UnusedOpcodesMakeDeviceUnknown : Prop :=
  (∀ (i : Instr) (rest : List Byte) (s : State), i = .rdmr rest ∨ i = .edio rest ∨ i = .eqio rest ∨ i = .rstio rest →
    s.blk.csLine = true → s.dev.resp = .responsive →
    ∃ t, exec i s = .next t ∧ t.dev.resp = .unknown ∧ t.blk = s.blk) ∧
  (∀ (op : Byte) (rest : List Byte) (s : State) (more : List Turn), op ≠ 0x01#8 → op ≠ 0x02#8 → op ≠ 0x03#8 →
    s.blk.csLine = true → s.dev.resp = .responsive → s.env.turns = .frame (op :: rest) :: more →
    ∃ t, step s = .next t ∧ t.dev.resp = .unknown ∧ t.blk = s.blk)

/-- R67: a sleeping device ignores every frame; the rising edge of CS that closes it makes the device responsive. That the block sees
nothing of the frame is the model's choice (DEDUCED, log 5). -/
def Obligations.SleepingDeviceIgnoresFrames : Prop :=
  ∀ (i : Instr) (s : State), i.level = .wire → s.blk.csLine = true → s.dev.resp = .asleep →
    ∃ t, exec i s = .next t ∧ t.dev.resp = .responsive ∧ t.dev.modeIsByte = s.dev.modeIsByte ∧
      (∀ a, t.dev.cell a = s.dev.cell a) ∧ t.blk = s.blk

/-- R71: a frame cut short by CS changes neither a cell nor the mode: one of 0x01 in any mode (R68), one of 0x02 or 0x03 in Byte mode
(R69, R70; in another mode the model makes the device `Unknown` at the opcode byte, log 11). -/
def Obligations.AbortedFramesChangeNothing : Prop :=
  ∀ (op : Byte) (rest : List Byte) (s : State) (more : List Turn),
    (op = 0x01#8 ∧ rest.length < 1) ∨ ((op = 0x02#8 ∨ op = 0x03#8) ∧ rest.length < 4 ∧ s.dev.modeIsByte = true) →
    s.blk.csLine = true → s.dev.resp = .responsive → s.env.turns = .frame (op :: rest) :: more →
    ∃ t, step s = .next t ∧ t.dev.resp = .responsive ∧ t.dev.modeIsByte = s.dev.modeIsByte ∧
      ∀ a, t.dev.cell a = s.dev.cell a

/-- A frame longer than its opcode fixes (R69, D27e; that the same holds of 0x01 and 0x03 is DEDUCED, log 11): a responsive device
ends `Unknown`. That the block sees nothing of the frame is the model's choice (DEDUCED, log 5). -/
def Obligations.OverlongFramesMakeDeviceUnknown : Prop :=
  ∀ (op : Byte) (rest : List Byte) (s : State) (more : List Turn),
    (op = 0x01#8 ∧ 1 < rest.length) ∨ ((op = 0x02#8 ∨ op = 0x03#8) ∧ 4 < rest.length) →
    s.blk.csLine = true → s.dev.resp = .responsive → s.env.turns = .frame (op :: rest) :: more →
    ∃ t, step s = .next t ∧ t.dev.resp = .unknown ∧ t.blk = s.blk

/-- The frames that reach a device in `Unknown` leave it there (R71); a frame driven while the block holds CS low makes any device
`Unknown` (the model's reading of R194, DEDUCED, log 5). That the block sees nothing of the frame is log 5 too. -/
def Obligations.FramesAtAnUnknowableDevice : Prop :=
  ∀ (i : Instr) (s : State), i.level = .wire → s.dev.resp = .unknown ∨ s.blk.csLine = false →
    ∃ t, exec i s = .next t ∧ t.dev.resp = .unknown ∧ t.blk = s.blk

/-- `RESP = Unknown` lasts for the rest of the run, whatever moves (R71); a new run does not end it either, since reset does not
reach the device (R210). -/
def Obligations.UnknownDeviceStaysUnknown : Prop :=
  ∀ s t : State, step s = .next t → s.dev.resp = .unknown → t.dev.resp = .unknown

/-! ## Reset -/

/-- R210: after reset every piece of the block's state has its reset value, whatever it was, and a new run begins with an empty
trace; the attached device, its CS line not low, is not reset. -/
def Obligations.ResetValues : Prop :=
  ∀ (s : State) (bits : Nat) (rest : List Turn), s.env.turns = .reset bits :: rest →
    ∃ t, step s = .next t ∧
      t.blk.addr = 0x00000000#32 ∧ t.blk.wdata = 0x00000000#32 ∧ t.blk.rdata = 0x00000000#32 ∧
      t.blk.status.word = 0x00000100#32 ∧ t.blk.seq = [] ∧ t.blk.seqPc = 0 ∧ t.blk.curOp = .none ∧ t.blk.capture = 0x00#8 ∧
      t.blk.ser = { txSh := 0x00#8, rxSh := 0x00#8, bits := 0, sck := false, mosi := false } ∧ t.blk.settleCnt = 0 ∧
      t.blk.trace = [] ∧ t.blk = State.reset.blk ∧ (s.blk.csLine = true → t.dev = s.dev)

/-- Reset inside a frame (R71, R211): the pad is no longer driven, the line rises, and the device aborts the frame: no cell and no
mode changes, even in the middle of a byte. -/
def Obligations.ResetAbortsFrame : Prop :=
  ∀ (s : State) (bits : Nat) (rest : List Turn), s.env.turns = .reset bits :: rest → s.blk.csLine = false →
    s.dev.resp = .responsive → s.dev.bitPos = 0 →
    ∃ t, step s = .next t ∧ t.blk.status.busy = false ∧ t.blk.csLine = true ∧ t.dev.resp = .responsive ∧
      t.dev.modeIsByte = s.dev.modeIsByte ∧ ∀ a, t.dev.cell a = s.dev.cell a

/-! ## The whole machine -/

/-- The invariant holds right after reset. -/
def Obligations.ResetMeetsInvariant : Prop := State.reset.Inv

/-- Every step keeps the invariant: SEQ is a program of CUR_OP and SEQ_PC within it (R37, R38), BUSY = 0 is idle (R37), the CS latch
is what the actions performed wrote (R125), the pad is driven where it must be (R115, R216), the flags of a running command read 0
(R219), `RDATA[31:8]` is 0 (R24), SCK idles at 0 (R40; general knowledge in the spec, PRESUMED, log 17, and DEDUCED of a faulted
exchange, log 10), the memory is in its canonical form within its address space (R51), and a
device that has seen INIT's pulse does not sleep (R67, R216). -/
def Obligations.StepKeepsInvariant : Prop := ∀ s t : State, s.Inv → step s = .next t → t.Inv

/-- From the invariant, nothing stops the machine but a host access outside the block's contract (R56), one that reaches the window and
is not 32 bits wide at an offset that is a multiple of 4: no action's precondition fails (R115, R117), and no instruction is refused.
That an access that does not reach the window stops nothing is the model's reading (DEDUCED, log 9). -/
def Obligations.OnlyHostAccessStops : Prop :=
  ∀ s : State, s.Inv →
    (∃ t, step s = .next t) ∨
      (step s = .fault .hostAccessOutsideContract ∧ ∃ addr width,
        (s.nextTurn = .host (.read addr width) ∨ ∃ data, s.nextTurn = .host (.write addr width data)) ∧
        s.inWindow addr width = true ∧ s.admits addr width = false)

/-- R115, R117, R216: from the invariant an exchange is about to be performed only while CS is low and driven, and never towards a
device that has not seen INIT's pulse; the settle begins only while CS is high. In a state that no run reaches the model stops by
name (its own choice, log 14). -/
def Obligations.ExchangesOnlyInsideFrames : Prop :=
  (∀ (s : State) (tx : Byte) (cap : Bool), s.Inv → s.blk.nextAction = some (.xfer tx cap) →
    s.blk.status.csLevel = false ∧ s.blk.status.csOe = true ∧ s.dev.resp ≠ .asleep) ∧
  (∀ s : State, s.Inv → s.blk.nextAction = some .settle → s.blk.status.csLevel = true) ∧
  (∀ (s : State) (tx : Byte) (cap : Bool), s.blk.nextAction = some (.xfer tx cap) →
    s.blk.status.csLevel = true ∨ s.blk.status.csOe = false → controllerStep s = .fault .xferOutsideFrame) ∧
  (∀ s : State, s.blk.nextAction = some .settle → s.blk.status.csLevel = false → controllerStep s = .fault .settleInsideFrame)

/-- Chip-select ownership (R33, R125): in any step the latch changes only by an `A_CS` action, by the release after a transport
fault, or by reset; and CS is high whenever BUSY = 0. -/
def Obligations.ChipSelectOwnership : Prop :=
  (∀ s t : State, step s = .next t → t.blk.status.csLevel ≠ s.blk.status.csLevel →
    (s.nextTurn = .controller ∧ s.blk.nextAction = some (.cs t.blk.status.csLevel)) ∨
    (s.nextTurn = .controller ∧ (∃ tx cap, s.blk.nextAction = some (.xfer tx cap)) ∧ t.blk.status.csLevel = true ∧
      t.blk.status.errXport = true) ∨
    ∃ bits, s.nextTurn = .reset bits) ∧
  (∀ s : State, s.Inv → s.blk.status.busy = false → s.blk.status.csLevel = true)

/-- R24: RDATA changes only when a READ completes, to the zero-extended captured byte, or by reset. -/
def Obligations.RdataChangesOnlyByRead : Prop :=
  ∀ s t : State, step s = .next t → t.blk.rdata ≠ s.blk.rdata →
    (s.blk.curOp = .read ∧ s.blk.seqPc + 1 = s.blk.seq.length ∧ t.blk.status.busy = false ∧
      t.blk.rdata = t.blk.capture.setWidth 32) ∨
    ∃ bits, s.nextTurn = .reset bits

/-- STATUS.INIT (R26, R140): it is set only when an INIT program ends, and cleared only by an accepted INIT, a 32-bit write to CMD with
`OP = 0b01` while BUSY = 0, or by reset. -/
def Obligations.InitFlagLifeCycle : Prop :=
  ∀ s t : State, step s = .next t →
    (s.blk.status.init = false → t.blk.status.init = true →
      s.blk.curOp = .init ∧ s.blk.seqPc + 1 = s.blk.seq.length ∧ t.blk.status.busy = false) ∧
    (s.blk.status.init = true → t.blk.status.init = false →
      (∃ w, s.nextTurn = .host (.write s.params.base 4 w) ∧ w.extractLsb' 0 2 = 0b01#2 ∧ s.blk.status.busy = false) ∨
      ∃ bits, s.nextTurn = .reset bits)

/-- The error flags (R45): a flag that is set stays set until a command is accepted, a 32-bit write to CMD while BUSY = 0, or the block
is reset. -/
def Obligations.ErrorFlagsSticky : Prop :=
  ∀ (s t : State) (e : Err), step s = .next t → s.blk.status.flag e = true → t.blk.status.flag e = false →
    (∃ w, s.nextTurn = .host (.write s.params.base 4 w) ∧ s.blk.status.busy = false) ∨ ∃ bits, s.nextTurn = .reset bits

/-- The trace (R14, R211): a step appends at most two events (one an action, R113, R120; `XF` and the release of CS at a fault, R122),
and only a move of the controller or of the clock appends any; reset ends the run's trace. That the clock moves on its own, and that
its move ends `A_SETTLE` with its event, is the model's choice (DESIGN CHOICE, log 13). -/
def Obligations.TraceGrowsByTheController : Prop :=
  ∀ s t : State, step s = .next t →
    (∃ es : List Event, t.blk.trace = s.blk.trace ++ es ∧ es.length ≤ 2 ∧
      (es ≠ [] → s.nextTurn = .controller ∨ s.nextTurn = .clock)) ∨
    (∃ bits, s.nextTurn = .reset bits ∧ t.blk.trace = [])
end

