-- ==== Sys2Proof/Laws/Encoding.lean ====
section
/-! SUPPORT. How words and bytes come apart and go back together: the fields of a CMD word, of a mode byte and of a wire address, and
the three bytes of the address encoder. -/

namespace Sys2Proof

theorem cmdWord_rsv (r : BitVec 30) (op : BitVec 2) : (r ++ op).extractLsb' 2 30 = r := by
  apply BitVec.eq_of_getLsbD_eq
  intro i hi
  simp only [BitVec.getLsbD_append, BitVec.getLsbD_extractLsb', hi, decide_true, Bool.true_and]
  rw [if_neg (by omega), show 2 + i - 2 = i by omega]

theorem cmdWord_op (r : BitVec 30) (op : BitVec 2) : (r ++ op).extractLsb' 0 2 = op := by
  apply BitVec.eq_of_getLsbD_eq
  intro i hi
  simp only [BitVec.getLsbD_append, BitVec.getLsbD_extractLsb', hi, decide_true, Bool.true_and, Nat.zero_add, if_true]

theorem cmdWord_join (w : Word) (op : BitVec 2) (h : w.extractLsb' 0 2 = op) : w.extractLsb' 2 30 ++ op = w := by
  subst h
  apply BitVec.eq_of_getLsbD_eq
  intro i hi
  simp only [BitVec.getLsbD_append, BitVec.getLsbD_extractLsb']
  by_cases h : i < 2
  · simp [h]
  · simp [h, show i - 2 < 30 by omega, show 2 + (i - 2) = i by omega]

theorem modeByte_join (m : Byte) : (m.extractLsb' 6 2 ++ m.extractLsb' 0 6 : BitVec 8) = m := by
  apply BitVec.eq_of_getLsbD_eq
  intro i hi
  simp only [BitVec.getLsbD_append, BitVec.getLsbD_extractLsb']
  by_cases h : i < 6
  · simp [h]
  · simp [h, show i - 6 < 2 by omega, show 6 + (i - 6) = i by omega]

theorem modeByte_mode (mode : BitVec 2) (rsv : BitVec 6) : (mode ++ rsv : BitVec 8).extractLsb' 6 2 = mode := by
  revert mode rsv
  decide

theorem modeByte_rsv (mode : BitVec 2) (rsv : BitVec 6) : (mode ++ rsv : BitVec 8).extractLsb' 0 6 = rsv := by
  revert mode rsv
  decide

theorem modeByte_eq_zero (mode : BitVec 2) (rsv : BitVec 6) : (mode ++ rsv : BitVec 8) = 0#8 ↔ mode = 0#2 ∧ rsv = 0#6 := by
  revert mode rsv
  decide

theorem wireAddrBytes_append (x y z : Byte) : wireAddrBytes (x ++ y ++ z) = [x, y, z] := by
  simp only [wireAddrBytes, List.cons.injEq, and_true]
  refine ⟨?_, ?_, ?_⟩ <;> apply BitVec.eq_of_getLsbD_eq <;> intro i hi <;>
    simp only [BitVec.getLsbD_append, BitVec.getLsbD_extractLsb']
  · simp [hi, show ¬ (16 + i < 8) by omega, show ¬ 16 + i - 8 < 8 by omega, show 16 + i - 8 - 8 = i by omega]
  · simp [hi, show ¬ (8 + i < 8) by omega]
  · simp [hi]

theorem wireAddr_join (a : BitVec 24) : a.extractLsb' 16 8 ++ a.extractLsb' 8 8 ++ a.extractLsb' 0 8 = a := by
  apply BitVec.eq_of_getLsbD_eq
  intro i hi
  simp only [BitVec.getLsbD_append, BitVec.getLsbD_extractLsb']
  by_cases h : i < 8
  · simp [h]
  · by_cases h2 : i - 8 < 8
    · simp [h, h2, show 8 + (i - 8) = i by omega]
    · simp [h, h2, show i - 8 - 8 < 8 by omega, show 16 + (i - 8 - 8) = i by omega]

namespace Machine

/-- `enc3(a)` is the 24-bit field `zext_24(a)`, most-significant byte first (R118). -/
theorem enc3_eq_wireAddrBytes (a : BitVec 17) : enc3 a = wireAddrBytes (a.setWidth 24) := by
  simp only [enc3, wireAddrBytes, List.cons.injEq, and_true]
  refine ⟨?_, ?_, ?_⟩ <;> apply BitVec.eq_of_toNat_eq <;> simp [Nat.shiftRight_eq_div_pow] <;> omega

/-- The address bytes of an operand that passed validation, as quotients (R90, R118). -/
theorem enc3_addrOperand (a : Word) (h : a.toNat ≤ 131071) :
    enc3 (addrOperand a) =
      [BitVec.ofNat 8 (a.toNat / 65536), BitVec.ofNat 8 (a.toNat / 256), BitVec.ofNat 8 a.toNat] := by
  simp only [enc3, addrOperand, List.cons.injEq, and_true]
  refine ⟨?_, ?_, ?_⟩ <;> apply BitVec.eq_of_toNat_eq <;> simp [Nat.shiftRight_eq_div_pow] <;> omega

theorem valueOperand_eq_ofNat (v : Word) : valueOperand v = BitVec.ofNat 8 v.toNat := by
  simp [valueOperand]

end Machine

end Sys2Proof
end

