-- ==== Sys2Proof/Laws/Device.lean ====
section
/-! SUPPORT. What a byte clocked into the device does, by its responsiveness, and that every operation of the device keeps its
memory in canonical form. -/

namespace Sys2Proof.Machine

theorem cellOfField_le (a : BitVec 24) : cellOfField a ≤ Config.addrMax := by
  have := (a.setWidth 17).isLt
  simp only [cellOfField, Config.addrMax]
  omega

theorem Device.clockIn_asleep (n : Nat) : ∀ (tx : Byte) (d : Device), d.resp = .asleep → Device.clockIn n tx d = d := by
  induction n with
  | zero => intros; rfl
  | succ n ih =>
    intro tx d h
    have : d.sampleBit tx.msb = d := by simp [Device.sampleBit, h]
    simp [Device.clockIn, this, ih, h]

theorem Device.sampleBit_unknown {d : Device} (b : Bool) (h : d.resp = .unknown) : d.sampleBit b = d.enterUnknown := by
  simp [Device.sampleBit, h]

theorem Device.clockIn_unknown (n : Nat) : ∀ (tx : Byte) (d : Device), d.resp = .unknown →
    (Device.clockIn n tx d).resp = .unknown := by
  induction n with
  | zero => intro _ _ h; exact h
  | succ n ih => intro tx d h; rw [Device.clockIn, Device.sampleBit_unknown _ h]; exact ih _ _ rfl

/-- A bit before the last of a byte is only shifted in. -/
theorem Device.sampleBit_inside {d : Device} (b : Bool) (h : d.resp = .responsive) (hp : d.bitPos < 7) :
    d.sampleBit b = { d with shift := d.shift.shiftConcat b, bitPos := d.bitPos + 1 } := by
  simp [Device.sampleBit, h, hp]

/-- The last bit of a byte completes it. -/
theorem Device.sampleBit_last {d : Device} (b : Bool) (h : d.resp = .responsive) (hp : ¬ d.bitPos < 7) :
    d.sampleBit b = Device.frameStep { d with shift := 0x00#8, bitPos := 0 } (d.bytes ++ [d.shift.shiftConcat b]) := by
  simp [Device.sampleBit, h, hp]

/-- The eight bits of a byte, most-significant first, shifted into any register leave the byte. -/
theorem shift_in_byte (r tx : Byte) :
    ((((((((r.shiftConcat tx.msb).shiftConcat (tx <<< 1).msb).shiftConcat (tx <<< 1 <<< 1).msb).shiftConcat
      (tx <<< 1 <<< 1 <<< 1).msb).shiftConcat (tx <<< 1 <<< 1 <<< 1 <<< 1).msb).shiftConcat
      (tx <<< 1 <<< 1 <<< 1 <<< 1 <<< 1).msb).shiftConcat (tx <<< 1 <<< 1 <<< 1 <<< 1 <<< 1 <<< 1).msb).shiftConcat
      (tx <<< 1 <<< 1 <<< 1 <<< 1 <<< 1 <<< 1 <<< 1).msb) = tx := by
  apply BitVec.eq_of_getLsbD_eq
  intro i hi
  simp only [BitVec.getLsbD_shiftConcat, BitVec.msb_eq_getLsbD_last, BitVec.getLsbD_shiftLeft]
  have : i = 0 ∨ i = 1 ∨ i = 2 ∨ i = 3 ∨ i = 4 ∨ i = 5 ∨ i = 6 ∨ i = 7 := by omega
  rcases this with h | h | h | h | h | h | h | h <;> subst h <;> simp

/-- A byte clocked into a responsive device between bytes: the frame has one byte more (R68). -/
theorem Device.clockIn_byte (tx : Byte) (d : Device) (h : d.resp = .responsive) (hp : d.bitPos = 0) :
    Device.clockIn 8 tx d = Device.frameStep { d with shift := 0x00#8, bitPos := 0 } (d.bytes ++ [tx]) := by
  simp only [Device.clockIn, Device.sampleBit, h, hp, Nat.reduceAdd, Nat.reduceLT, if_true, if_false, Nat.lt_irrefl,
    shift_in_byte]

/-- What a completed byte can do: extend the frame, select Byte mode, write the addressed cell, or make the device unknown. -/
theorem Device.frameStep_cases (d : Device) (bytes : List Byte) :
    d.frameStep bytes = d ∨ d.frameStep bytes = { d with bytes := bytes } ∨
      d.frameStep bytes = { d with bytes := bytes, mode := .byte } ∨ d.frameStep bytes = d.enterUnknown ∨
      ∃ op a2 a1 a0 v, bytes = [op, a2, a1, a0, v] ∧
        d.frameStep bytes = { d with bytes := bytes, mem := Memory.write d.mem (cellOfBytes a2 a1 a0) v } := by
  unfold Device.frameStep
  split
  · exact .inl rfl
  · split <;> simp
  · split
    · split <;> simp
    · simp
  · split <;> simp
  · split <;> simp
  · split
    · exact .inr (.inr (.inr (.inr ⟨_, _, _, _, _, rfl, rfl⟩)))
    · split <;> simp
  · simp

theorem Device.frameStep_memWf {d : Device} (bytes : List Byte) (h : Memory.wf d.mem = true) :
    Memory.wf (d.frameStep bytes).mem = true := by
  rcases d.frameStep_cases bytes with e | e | e | e | ⟨_, _, _, _, _, _, e⟩ <;> rw [e]
  · exact h
  · exact h
  · exact h
  · rfl
  · exact Memory.wf_write (cellOfField_le _) h

theorem Device.frameStep_bitPos {d : Device} (bytes : List Byte) (h : d.bitPos < 8) : (d.frameStep bytes).bitPos < 8 := by
  rcases d.frameStep_cases bytes with e | e | e | e | ⟨_, _, _, _, _, _, e⟩ <;> rw [e]
  · exact h
  · exact h
  · exact h
  · simp [Device.enterUnknown]
  · exact h

theorem Device.sampleBit_memWf {d : Device} (b : Bool) (h : Memory.wf d.mem = true) : Memory.wf (d.sampleBit b).mem = true := by
  unfold Device.sampleBit
  split
  · rfl
  · exact h
  · dsimp only
    split
    · exact h
    · exact Device.frameStep_memWf _ h

theorem Device.sampleBit_bitPos {d : Device} (b : Bool) (h : d.bitPos < 8) : (d.sampleBit b).bitPos < 8 := by
  unfold Device.sampleBit
  split
  · simp [Device.enterUnknown]
  · exact h
  · dsimp only
    split
    · dsimp only; omega
    · exact Device.frameStep_bitPos _ (by simp)

theorem Device.clockIn_memWf (n : Nat) : ∀ (tx : Byte) (d : Device), Memory.wf d.mem = true →
    Memory.wf (Device.clockIn n tx d).mem = true := by
  induction n with
  | zero => intro _ _ h; exact h
  | succ n ih => intro tx d h; exact ih _ _ (Device.sampleBit_memWf _ h)

theorem Device.clockIn_bitPos (n : Nat) : ∀ (tx : Byte) (d : Device), d.bitPos < 8 → (Device.clockIn n tx d).bitPos < 8 := by
  induction n with
  | zero => intro _ _ h; exact h
  | succ n ih => intro tx d h; exact ih _ _ (Device.sampleBit_bitPos _ h)

theorem Device.csFall_memWf {d : Device} (h : Memory.wf d.mem = true) : Memory.wf d.csFall.mem = true := by
  unfold Device.csFall; split <;> first | rfl | exact h

theorem Device.csRise_memWf {d : Device} (h : Memory.wf d.mem = true) : Memory.wf d.csRise.mem = true := by
  unfold Device.csRise; split <;> first | rfl | exact h

theorem Device.seeCs_memWf {d : Device} (x y : Bool) (h : Memory.wf d.mem = true) : Memory.wf (d.seeCs x y).mem = true := by
  unfold Device.seeCs
  split
  · exact Device.csFall_memWf h
  · split
    · exact Device.csRise_memWf h
    · exact h

theorem Device.exchangeAll_memWf (k : Nat) (bytes : List Byte) : ∀ (j : Nat) (d : Device), Memory.wf d.mem = true →
    Memory.wf (Device.exchangeAll k j bytes d).1.mem = true := by
  induction bytes with
  | nil => intro _ _ h; exact h
  | cons tx rest ih => intro j d h; exact ih _ _ (Device.clockIn_memWf 8 tx d h)

/-- A frame from outside keeps the memory's canonical form. -/
theorem Device.frame_memWf {d : Device} (k : Nat) (bytes : List Byte) (h : Memory.wf d.mem = true) :
    Memory.wf (d.frame k bytes).1.mem = true :=
  Device.csRise_memWf (Device.exchangeAll_memWf k bytes 0 _ (Device.csFall_memWf h))

/-- The device's answers do not reach the device: its state after a frame's bytes is theirs alone. -/
theorem Device.exchangeAll_fst (k : Nat) (bytes : List Byte) : ∀ (j : Nat) (d : Device),
    (Device.exchangeAll k j bytes d).1 = bytes.foldl (fun d tx => Device.clockIn 8 tx d) d := by
  induction bytes with
  | nil => intros; rfl
  | cons tx rest ih => intro j d; simp only [Device.exchangeAll, ih, List.foldl]

theorem Device.exchangeAll_length (k : Nat) (bytes : List Byte) : ∀ (j : Nat) (d : Device),
    (Device.exchangeAll k j bytes d).2.length = bytes.length := by
  induction bytes with
  | nil => intros; rfl
  | cons tx rest ih => intro j d; simp only [Device.exchangeAll, List.length_cons, ih]

/-! Frames at a responsive device, byte by byte; the device is written out by its fields. -/

/-- The bytes of a frame clocked in one after the other. -/
abbrev Device.clockAll (d : Device) (bytes : List Byte) : Device := bytes.foldl (fun d tx => Device.clockIn 8 tx d) d

theorem Device.clockIn_mk (mem : Memory) (mode : Mode) (bytes : List Byte) (sh : Byte) (tick : Nat) (tx : Byte) :
    Device.clockIn 8 tx ⟨mem, mode, .responsive, bytes, 0, sh, tick⟩ =
      Device.frameStep ⟨mem, mode, .responsive, bytes, 0, 0x00#8, tick⟩ (bytes ++ [tx]) :=
  Device.clockIn_byte tx _ rfl rfl

theorem Device.clockAll_unknown (bytes : List Byte) : ∀ d : Device, d.resp = .unknown → (d.clockAll bytes).resp = .unknown := by
  induction bytes with
  | nil => intro d h; exact h
  | cons b bs ih => intro d h; exact ih _ (Device.clockIn_unknown 8 b d h)

theorem Device.clockAll_asleep (bytes : List Byte) : ∀ d : Device, d.resp = .asleep → d.clockAll bytes = d := by
  induction bytes with
  | nil => intro d _; rfl
  | cons b bs ih => intro d h; simp only [Device.clockAll, List.foldl, Device.clockIn_asleep 8 b d h]; exact ih d h

/-- The mode-set frame (R68). -/
theorem Device.clockAll_mode (mem : Memory) (mode : Mode) (tick : Nat) :
    Device.clockAll ⟨mem, mode, .responsive, [], 0, 0x00#8, tick⟩ [0x01#8, 0x00#8] =
      ⟨mem, .byte, .responsive, [0x01#8, 0x00#8], 0, 0x00#8, tick⟩ := by
  simp [Device.clockAll, Device.clockIn_mk, Device.frameStep]

/-- The write frame in Byte mode (R69). -/
theorem Device.clockAll_write (mem : Memory) (tick : Nat) (a2 a1 a0 v : Byte) :
    Device.clockAll ⟨mem, .byte, .responsive, [], 0, 0x00#8, tick⟩ [0x02#8, a2, a1, a0, v] =
      ⟨Memory.write mem (cellOfBytes a2 a1 a0) v, .byte, .responsive, [0x02#8, a2, a1, a0, v], 0, 0x00#8, tick⟩ := by
  simp [Device.clockAll, Device.clockIn_mk, Device.frameStep]

/-- The header of the read frame in Byte mode (R70). -/
theorem Device.clockAll_header (mem : Memory) (tick : Nat) (a2 a1 a0 : Byte) :
    Device.clockAll ⟨mem, .byte, .responsive, [], 0, 0x00#8, tick⟩ [0x03#8, a2, a1, a0] =
      ⟨mem, .byte, .responsive, [0x03#8, a2, a1, a0], 0, 0x00#8, tick⟩ := by
  simp [Device.clockAll, Device.clockIn_mk, Device.frameStep]

/-- The response exchange of the read frame (R70). -/
theorem Device.clockIn_response (mem : Memory) (tick : Nat) (a2 a1 a0 fill : Byte) :
    Device.clockIn 8 fill ⟨mem, .byte, .responsive, [0x03#8, a2, a1, a0], 0, 0x00#8, tick⟩ =
      ⟨mem, .byte, .responsive, [0x03#8, a2, a1, a0, fill], 0, 0x00#8, tick⟩ := by
  simp [Device.clockIn_mk, Device.frameStep]

/-- A first byte that is none of the three opcodes, or an access while `MODE = Other` (R69, R72). -/
theorem Device.clockAll_refused (mem : Memory) (mode : Mode) (tick : Nat) (op : Byte) (rest : List Byte)
    (h : op ≠ 0x01#8 ∧ (op ≠ 0x02#8 ∧ op ≠ 0x03#8 ∨ mode = .other)) :
    (Device.clockAll ⟨mem, mode, .responsive, [], 0, 0x00#8, tick⟩ (op :: rest)).resp = .unknown := by
  refine Device.clockAll_unknown rest _ ?_
  show (Device.clockIn 8 op _).resp = .unknown
  rw [Device.clockIn_mk]
  rcases h with ⟨h1, ⟨h2, h3⟩ | h2⟩ <;> simp [Device.frameStep, *, Device.enterUnknown]

/-- A frame from outside while CS is high (R84). -/
theorem State.frame_dev (s : State) (bytes : List Byte) (h : s.blk.csLine = true) :
    (s.frame bytes).dev = (s.dev.csFall.clockAll bytes).csRise := by
  simp [State.frame, h, Device.frame, Device.exchangeAll_fst]

theorem Device.csFall_mk (mem : Memory) (mode : Mode) (bytes : List Byte) (bp : Nat) (sh : Byte) (tick : Nat) :
    Device.csFall ⟨mem, mode, .responsive, bytes, bp, sh, tick⟩ = ⟨mem, mode, .responsive, [], 0, 0x00#8, tick⟩ := rfl

theorem Device.csFall_asleep_mk (mem : Memory) (mode : Mode) (bytes : List Byte) (bp : Nat) (sh : Byte) (tick : Nat) :
    Device.csFall ⟨mem, mode, .asleep, bytes, bp, sh, tick⟩ = ⟨mem, mode, .asleep, [], 0, 0x00#8, tick⟩ := rfl

theorem Device.csRise_responsive {d : Device} (h : d.resp = .responsive) : d.csRise = d := by simp [Device.csRise, h]

theorem Device.csRise_unknown {d : Device} (h : d.resp = .unknown) : d.csRise.resp = .unknown := by
  simp [Device.csRise, h, Device.enterUnknown]

/-- The three address bytes of a 17-bit number select its cell (R54, R69, R118). -/
theorem cellOfBytes_nat {a : Nat} (h : a ≤ 131071) :
    cellOfBytes (BitVec.ofNat 8 (a / 65536)) (BitVec.ofNat 8 (a / 256)) (BitVec.ofNat 8 a) = a := by
  simp only [cellOfBytes, cellOfField, BitVec.toNat_setWidth, BitVec.toNat_append, BitVec.toNat_ofNat]
  rw [← Nat.shiftLeft_add_eq_or_of_lt (by omega), ← Nat.shiftLeft_add_eq_or_of_lt (by omega)]
  simp only [Nat.shiftLeft_eq]
  omega

/-- The address bytes of a 24-bit field select the cell `A[16:0]` (R69). -/
theorem cellOfBytes_field (a : BitVec 24) :
    cellOfBytes (a.extractLsb' 16 8) (a.extractLsb' 8 8) (a.extractLsb' 0 8) = a.toNat % 131072 := by
  have : a.extractLsb' 16 8 ++ a.extractLsb' 8 8 ++ a.extractLsb' 0 8 = a := by
    apply BitVec.eq_of_getLsbD_eq
    intro i hi
    simp only [BitVec.getLsbD_append, BitVec.getLsbD_extractLsb']
    by_cases h : i < 8
    · simp [h]
    · by_cases h2 : i - 8 < 8
      · simp [h, h2, show 8 + (i - 8) = i by omega]
      · simp [h, h2, show i - 8 - 8 < 8 by omega, show 16 + (i - 8 - 8) = i by omega]
  simp [cellOfBytes, cellOfField, this]

end Sys2Proof.Machine
end

