-- ==== Sys2Proof/Laws/Serializer.lean ====
section
/-! SUPPORT. What `n` periods of SCK do, on both ends of the wires, and what eight of them come to. -/

namespace Sys2Proof.Machine

/-- The device end of `clockBits` is `clockIn` of the byte sent. -/
theorem clockBits_dev (n : Nat) : ∀ (miso : Byte) (ser : Serializer) (d : Device),
    (clockBits n miso (ser, d)).2 = Device.clockIn n ser.txSh d := by
  induction n with
  | zero => intros; rfl
  | succ n ih => intro miso ser d; simp only [clockBits, Device.clockIn, ih]; rfl

/-- The serializer end of `clockBits` does not depend on the device. -/
theorem clockBits_ser (n : Nat) : ∀ (miso : Byte) (ser : Serializer) (d d' : Device),
    (clockBits n miso (ser, d)).1 = (clockBits n miso (ser, d')).1 := by
  induction n with
  | zero => intros; rfl
  | succ n ih => intro miso ser d d'; exact ih _ _ _ _

theorem clockBits_sck (n : Nat) : ∀ (miso : Byte) (ser : Serializer) (d : Device), ser.sck = false →
    (clockBits n miso (ser, d)).1.sck = false := by
  induction n with
  | zero => intro _ _ _ h; exact h
  | succ n ih => intro miso ser d _; exact ih _ _ _ rfl

theorem clockBits_bits (n : Nat) : ∀ (miso : Byte) (ser : Serializer) (d : Device),
    (clockBits n miso (ser, d)).1.bits = ser.bits + n := by
  induction n with
  | zero => intros; rfl
  | succ n ih =>
    intro miso ser d
    simp only [clockBits, ih, Serializer.fall, Serializer.rise, Serializer.drive]
    omega

/-- Eight periods put the whole of MISO's byte into `RX_SH`. -/
theorem clockBits_rx (miso : Byte) (ser : Serializer) (d : Device) : (clockBits 8 miso (ser, d)).1.rxSh = miso :=
  shift_in_byte ser.rxSh miso

/-- The serializer after a whole exchange: `BITS = 8`, SCK = 0, MOSI holds `tx[0]` (R114). -/
theorem clockBits_eight (miso tx : Byte) (ser : Serializer) (d : Device) :
    (clockBits 8 miso (ser.load tx, d)).1 = ⟨0x00#8, miso, 8, false, tx.getLsbD 0⟩ := by
  have hrx := clockBits_rx miso (ser.load tx) d
  have hbits := clockBits_bits 8 miso (ser.load tx) d
  have htx : (clockBits 8 miso (ser.load tx, d)).1.txSh = 0x00#8 := by
    simp only [clockBits, Serializer.fall, Serializer.rise, Serializer.drive, Serializer.load]
    apply BitVec.eq_of_getLsbD_eq
    intro i hi
    simp only [BitVec.getLsbD_shiftLeft]
    have : i = 0 ∨ i = 1 ∨ i = 2 ∨ i = 3 ∨ i = 4 ∨ i = 5 ∨ i = 6 ∨ i = 7 := by omega
    rcases this with h | h | h | h | h | h | h | h <;> subst h <;> simp
  have hmosi : (clockBits 8 miso (ser.load tx, d)).1.mosi = tx.getLsbD 0 := by
    simp [clockBits, Serializer.fall, Serializer.rise, Serializer.drive, Serializer.load, BitVec.msb_eq_getLsbD_last]
  have hsck : (clockBits 8 miso (ser.load tx, d)).1.sck = false := rfl
  revert hrx hbits htx hmosi hsck
  generalize (clockBits 8 miso (ser.load tx, d)).1 = r
  intro hrx hbits htx hmosi hsck
  cases r
  simp_all [Serializer.load]

end Sys2Proof.Machine
end

