-- ==== Sys2Proof/Laws/State.lean ====
section
/-! SUPPORT. One lemma per field and named update of the state, each true by rfl: what the update writes, and that it leaves the rest
alone. -/

namespace Sys2Proof.Machine

/-! `Block.emit` on the block. -/

@[simp] theorem Block.emit_addr (b : Block) (ev : Event) : (b.emit ev).addr = b.addr := rfl
@[simp] theorem Block.emit_wdata (b : Block) (ev : Event) : (b.emit ev).wdata = b.wdata := rfl
@[simp] theorem Block.emit_rdata (b : Block) (ev : Event) : (b.emit ev).rdata = b.rdata := rfl
@[simp] theorem Block.emit_status (b : Block) (ev : Event) : (b.emit ev).status = b.status := rfl
@[simp] theorem Block.emit_seq (b : Block) (ev : Event) : (b.emit ev).seq = b.seq := rfl
@[simp] theorem Block.emit_seqPc (b : Block) (ev : Event) : (b.emit ev).seqPc = b.seqPc := rfl
@[simp] theorem Block.emit_curOp (b : Block) (ev : Event) : (b.emit ev).curOp = b.curOp := rfl
@[simp] theorem Block.emit_capture (b : Block) (ev : Event) : (b.emit ev).capture = b.capture := rfl
@[simp] theorem Block.emit_ser (b : Block) (ev : Event) : (b.emit ev).ser = b.ser := rfl
@[simp] theorem Block.emit_settleCnt (b : Block) (ev : Event) : (b.emit ev).settleCnt = b.settleCnt := rfl
@[simp] theorem Block.emit_xferIdx (b : Block) (ev : Event) : (b.emit ev).xferIdx = b.xferIdx := rfl
@[simp] theorem Block.emit_trace (b : Block) (ev : Event) : (b.emit ev).trace = b.trace ++ [ev] := rfl

/-! `Block.raise` on the block. -/

@[simp] theorem Block.raise_addr (b : Block) (e : Err) : (b.raise e).addr = b.addr := rfl
@[simp] theorem Block.raise_wdata (b : Block) (e : Err) : (b.raise e).wdata = b.wdata := rfl
@[simp] theorem Block.raise_rdata (b : Block) (e : Err) : (b.raise e).rdata = b.rdata := rfl
@[simp] theorem Block.raise_status (b : Block) (e : Err) : (b.raise e).status = b.status.raise e := rfl
@[simp] theorem Block.raise_seq (b : Block) (e : Err) : (b.raise e).seq = b.seq := rfl
@[simp] theorem Block.raise_seqPc (b : Block) (e : Err) : (b.raise e).seqPc = b.seqPc := rfl
@[simp] theorem Block.raise_curOp (b : Block) (e : Err) : (b.raise e).curOp = b.curOp := rfl
@[simp] theorem Block.raise_capture (b : Block) (e : Err) : (b.raise e).capture = b.capture := rfl
@[simp] theorem Block.raise_ser (b : Block) (e : Err) : (b.raise e).ser = b.ser := rfl
@[simp] theorem Block.raise_settleCnt (b : Block) (e : Err) : (b.raise e).settleCnt = b.settleCnt := rfl
@[simp] theorem Block.raise_xferIdx (b : Block) (e : Err) : (b.raise e).xferIdx = b.xferIdx := rfl
@[simp] theorem Block.raise_trace (b : Block) (e : Err) : (b.raise e).trace = b.trace := rfl

/-! `Block.startProgram` on the block. -/

@[simp] theorem Block.startProgram_addr (b : Block) (op : CurOp) (seq : List Action) : (b.startProgram op seq).addr = b.addr := rfl
@[simp] theorem Block.startProgram_wdata (b : Block) (op : CurOp) (seq : List Action) : (b.startProgram op seq).wdata = b.wdata := rfl
@[simp] theorem Block.startProgram_rdata (b : Block) (op : CurOp) (seq : List Action) : (b.startProgram op seq).rdata = b.rdata := rfl
@[simp] theorem Block.startProgram_status (b : Block) (op : CurOp) (seq : List Action) : (b.startProgram op seq).status = { b.status with busy := true } := rfl
@[simp] theorem Block.startProgram_seq (b : Block) (op : CurOp) (seq : List Action) : (b.startProgram op seq).seq = seq := rfl
@[simp] theorem Block.startProgram_seqPc (b : Block) (op : CurOp) (seq : List Action) : (b.startProgram op seq).seqPc = 0 := rfl
@[simp] theorem Block.startProgram_curOp (b : Block) (op : CurOp) (seq : List Action) : (b.startProgram op seq).curOp = op := rfl
@[simp] theorem Block.startProgram_capture (b : Block) (op : CurOp) (seq : List Action) : (b.startProgram op seq).capture = b.capture := rfl
@[simp] theorem Block.startProgram_ser (b : Block) (op : CurOp) (seq : List Action) : (b.startProgram op seq).ser = b.ser := rfl
@[simp] theorem Block.startProgram_settleCnt (b : Block) (op : CurOp) (seq : List Action) : (b.startProgram op seq).settleCnt = b.settleCnt := rfl
@[simp] theorem Block.startProgram_xferIdx (b : Block) (op : CurOp) (seq : List Action) : (b.startProgram op seq).xferIdx = b.xferIdx := rfl
@[simp] theorem Block.startProgram_trace (b : Block) (op : CurOp) (seq : List Action) : (b.startProgram op seq).trace = b.trace := rfl

/-! `State.withPads` on the machine. -/

@[simp] theorem State.withPads_params (s : State) (b : Block) : (s.withPads b).params = s.params := rfl
@[simp] theorem State.withPads_blk (s : State) (b : Block) : (s.withPads b).blk = b := rfl
@[simp] theorem State.withPads_dev (s : State) (b : Block) : (s.withPads b).dev = s.dev.seeCs s.blk.csLine b.csLine := rfl
@[simp] theorem State.withPads_env (s : State) (b : Block) : (s.withPads b).env = s.env := rfl

/-! `State.useDraw` on the machine. -/

@[simp] theorem State.useDraw_params (s : State)  : (s.useDraw).params = s.params := rfl
@[simp] theorem State.useDraw_blk (s : State)  : (s.useDraw).blk = { s.blk with xferIdx := s.blk.xferIdx + 1 } := rfl
@[simp] theorem State.useDraw_dev (s : State)  : (s.useDraw).dev = s.dev := rfl
@[simp] theorem State.useDraw_env (s : State)  : (s.useDraw).env = { s.env with phy := s.env.phy.drop 1 } := rfl

/-! `State.popTurn` on the machine. -/

@[simp] theorem State.popTurn_params (s : State)  : (s.popTurn).params = s.params := rfl
@[simp] theorem State.popTurn_blk (s : State)  : (s.popTurn).blk = s.blk := rfl
@[simp] theorem State.popTurn_dev (s : State)  : (s.popTurn).dev = s.dev := rfl
@[simp] theorem State.popTurn_env (s : State)  : (s.popTurn).env = { s.env with turns := s.env.turns.drop 1 } := rfl

/-! `State.pushTurn` on the machine. -/

@[simp] theorem State.pushTurn_params (s : State) (t : Turn) : (s.pushTurn t).params = s.params := rfl
@[simp] theorem State.pushTurn_blk (s : State) (t : Turn) : (s.pushTurn t).blk = s.blk := rfl
@[simp] theorem State.pushTurn_dev (s : State) (t : Turn) : (s.pushTurn t).dev = s.dev := rfl
@[simp] theorem State.pushTurn_env (s : State) (t : Turn) : (s.pushTurn t).env = { s.env with turns := t :: s.env.turns } := rfl

/-! `State.enableCs` on the machine. -/

@[simp] theorem State.enableCs_params (s : State)  : (s.enableCs).params = s.params := rfl
@[simp] theorem State.enableCs_blk (s : State)  : (s.enableCs).blk = Block.emit { s.blk with status := { s.blk.status with csOe := true } } .oe := rfl
@[simp] theorem State.enableCs_dev (s : State)  : (s.enableCs).dev = s.dev.seeCs s.blk.csLine s.blk.status.csLevel := rfl
@[simp] theorem State.enableCs_env (s : State)  : (s.enableCs).env = s.env := rfl

/-! `State.setCs` on the machine. -/

@[simp] theorem State.setCs_params (s : State) (l : Bool) : (s.setCs l).params = s.params := rfl
@[simp] theorem State.setCs_blk (s : State) (l : Bool) : (s.setCs l).blk = Block.emit { s.blk with status := { s.blk.status with csLevel := l } } (.cs l) := rfl
@[simp] theorem State.setCs_dev (s : State) (l : Bool) : (s.setCs l).dev = s.dev.seeCs s.blk.csLine (if s.blk.status.csOe then l else true) := rfl
@[simp] theorem State.setCs_env (s : State) (l : Bool) : (s.setCs l).env = s.env := rfl

/-! `Status.clearErrors` and the start of a serializer exchange. -/

@[simp] theorem Status.clearErrors_busy (st : Status) : st.clearErrors.busy = st.busy := rfl
@[simp] theorem Status.clearErrors_init (st : Status) : st.clearErrors.init = st.init := rfl
@[simp] theorem Status.clearErrors_errAddr (st : Status) : st.clearErrors.errAddr = false := rfl
@[simp] theorem Status.clearErrors_errValue (st : Status) : st.clearErrors.errValue = false := rfl
@[simp] theorem Status.clearErrors_errNoinit (st : Status) : st.clearErrors.errNoinit = false := rfl
@[simp] theorem Status.clearErrors_errXport (st : Status) : st.clearErrors.errXport = false := rfl
@[simp] theorem Status.clearErrors_errCmd (st : Status) : st.clearErrors.errCmd = false := rfl
@[simp] theorem Status.clearErrors_errBusy (st : Status) : st.clearErrors.errBusy = false := rfl
@[simp] theorem Status.clearErrors_csLevel (st : Status) : st.clearErrors.csLevel = st.csLevel := rfl
@[simp] theorem Status.clearErrors_csOe (st : Status) : st.clearErrors.csOe = st.csOe := rfl

@[simp] theorem Serializer.load_txSh (s : Serializer) (tx : Byte) : (s.load tx).txSh = tx := rfl
@[simp] theorem Serializer.load_rxSh (s : Serializer) (tx : Byte) : (s.load tx).rxSh = 0x00#8 := rfl
@[simp] theorem Serializer.load_bits (s : Serializer) (tx : Byte) : (s.load tx).bits = 0 := rfl
@[simp] theorem Serializer.load_sck (s : Serializer) (tx : Byte) : (s.load tx).sck = s.sck := rfl
@[simp] theorem Serializer.load_mosi (s : Serializer) (tx : Byte) : (s.load tx).mosi = s.mosi := rfl

/-! Raising an error writes the flag of its cause and no other field of STATUS. -/

@[simp] theorem Status.raise_busy (st : Status) (e : Err) : (st.raise e).busy = st.busy := by cases e <;> rfl
@[simp] theorem Status.raise_init (st : Status) (e : Err) : (st.raise e).init = st.init := by cases e <;> rfl
@[simp] theorem Status.raise_csLevel (st : Status) (e : Err) : (st.raise e).csLevel = st.csLevel := by cases e <;> rfl
@[simp] theorem Status.raise_csOe (st : Status) (e : Err) : (st.raise e).csOe = st.csOe := by cases e <;> rfl

theorem Status.flag_raise (st : Status) (e e' : Err) : (st.raise e).flag e' = (decide (e = e') || st.flag e') := by
  cases e <;> cases e' <;> simp [Status.raise, Status.flag]

@[simp] theorem State.popTurn_pushTurn (s : State) (t : Turn) : (s.pushTurn t).popTurn = s := rfl

@[simp] theorem State.nextTurn_pushTurn (s : State) (t : Turn) : (s.pushTurn t).nextTurn = t := rfl

end Sys2Proof.Machine
end

