-- ==== Sys2Proof/Laws/Engine.lean ====
section
/-! SUPPORT. One lemma per shared operation, saying all it can do: the exchange, the fault, the abort, accepting a command, advancing,
and the controller's step. -/

namespace Sys2Proof.Machine

@[simp] theorem countDown_eq_zero (n : Nat) : countDown n = 0 := by
  induction n with
  | zero => rfl
  | succ n ih => exact ih

/-- The byte the device answers in the exchange that comes next. -/
abbrev State.answer (s : State) : Byte := s.dev.drives (s.drawAt 0).miso

/-- What an exchange that does not fault leaves (R113, R114). -/
theorem State.exchange_eq (s : State) (tx : Byte) (cap : Bool) :
    s.exchange tx cap =
      { params := s.params
        blk := { s.blk with
          ser := ⟨0x00#8, s.answer, 8, false, tx.getLsbD 0⟩
          capture := if cap then s.answer else s.blk.capture
          xferIdx := s.blk.xferIdx + 1
          trace := s.blk.trace ++ [.x tx s.answer] }
        dev := Device.clockIn 8 tx s.dev
        env := { s.env with phy := s.env.phy.drop 1 } } := by
  simp only [State.exchange, clockBits_eight, clockBits_dev, Block.emit]
  rfl

/-- What an abort leaves (R122). -/
theorem State.abort_eq (s : State) :
    s.abort =
      { params := s.params
        blk := { s.blk with
          seqPc := s.blk.seq.length
          status := { s.blk.status with csLevel := true, errXport := true, busy := false }
          trace := s.blk.trace ++ (if s.blk.status.csLevel then [] else [.cs true]) }
        dev := if s.blk.status.csLevel then s.dev else s.dev.seeCs s.blk.csLine true
        env := s.env } := by
  unfold State.abort
  by_cases h : s.blk.status.csLevel = true
  · simp only [h, if_true, List.append_nil]
    rcases s with ⟨p, ⟨a, w, r, ⟨s0, s1, s2, s3, s4, s5, s6, s7, s8, s9⟩, sq, pc, op, c, se, sc, xi, tr⟩, d, e⟩
    simp only at h
    subst h
    rfl
  · simp only [h, if_false, Bool.false_eq_true]
    cases ho : s.blk.status.csOe <;>
      simp [State.setCs, State.withPads, Block.emit, Block.csLine, Block.raise, Status.raise, ho]

/-- What an exchange that faults leaves (R113, R122): the device unknown, CS released, the program abandoned. -/
theorem State.exchangeFault_eq (s : State) (tx : Byte) (hcs : s.blk.status.csLevel = false) (hoe : s.blk.status.csOe = true) :
    ∃ ser d, s.exchangeFault tx =
      { params := s.params
        blk := { s.blk with
          ser := ser
          xferIdx := s.blk.xferIdx + 1
          seqPc := s.blk.seq.length
          status := { s.blk.status with csLevel := true, errXport := true, busy := false }
          trace := s.blk.trace ++ [.xf tx, .cs true] }
        dev := d
        env := { s.env with phy := s.env.phy.drop 1 } } ∧
      d.resp = .unknown ∧ d.mem = [] ∧ d.bitPos = 0 ∧ ser.bits < 8 ∧ (s.blk.ser.sck = false → ser.sck = false) := by
  refine ⟨_, _, by
    simp only [State.exchangeFault, State.abort_eq, Block.emit_status, Block.emit_seq, Block.emit_trace, State.useDraw_blk,
      State.useDraw_params, State.useDraw_env, hcs, if_false, Bool.false_eq_true, List.append_assoc, List.cons_append,
      List.nil_append]
    rfl, ?_, ?_, ?_, ?_, ?_⟩
  · simp [Block.csLine, Block.emit, hcs, hoe, Device.seeCs, Device.csRise, Device.enterUnknown]
  · simp [Block.csLine, Block.emit, hcs, hoe, Device.seeCs, Device.csRise, Device.enterUnknown]
  · simp [Block.csLine, Block.emit, hcs, hoe, Device.seeCs, Device.csRise, Device.enterUnknown]
  · have := (s.drawAt 0).bits.isLt
    refine lt_of_eq_of_lt (clockBits_bits _ _ _ _) ?_
    show 0 + _ < 8
    omega
  · intro h; exact clockBits_sck _ _ _ _ h

/-- Accepting a command (R140). -/
theorem Block.accept_busy {start : Block → Block} {b : Block} (h : b.status.busy = true) :
    Block.accept start b = b.raise .busy := by simp [Block.accept, h]

theorem Block.accept_idle {start : Block → Block} {b : Block} (h : b.status.busy = false) :
    Block.accept start b = start { b with status := b.status.clearErrors } := by simp [Block.accept, h]

/-- Advancing inside a program. -/
theorem Block.advance_inside {b : Block} (h : b.seqPc + 1 ≠ b.seq.length) : b.advance = { b with seqPc := b.seqPc + 1 } := by
  simp [Block.advance, h]

/-- Advancing past the last action completes (R120). -/
theorem Block.advance_last {b : Block} (h : b.seqPc + 1 = b.seq.length) :
    b.advance = Block.complete { b with seqPc := b.seqPc + 1 } := by simp [Block.advance, h]

/-- Completion, by `CUR_OP` (R121). -/
theorem Block.complete_eq (b : Block) :
    b.complete =
      { b with
        rdata := if b.curOp = .read then b.capture.zext32 else b.rdata
        status := { b.status with init := decide (b.curOp = .init) || b.status.init, busy := false } } := by
  cases h : b.curOp <;> simp [Block.complete, h]

theorem controllerStep_idle {s : State} (h : s.blk.nextAction = none) : controllerStep s = .next s := by
  simp [controllerStep, h]

theorem controllerStep_oe {s : State} (h : s.blk.nextAction = some .oe) :
    controllerStep s = .next { s.enableCs with blk := s.enableCs.blk.advance } := by
  simp [controllerStep, h, State.perform, Performed.outcome]

theorem controllerStep_cs {s : State} {l : Bool} (h : s.blk.nextAction = some (.cs l)) :
    controllerStep s = .next { s.setCs l with blk := (s.setCs l).blk.advance } := by
  simp [controllerStep, h, State.perform, Performed.outcome]

theorem controllerStep_xfer {s : State} {tx : Byte} {cap : Bool} (h : s.blk.nextAction = some (.xfer tx cap))
    (hcs : s.blk.status.csLevel = false) (hoe : s.blk.status.csOe = true) (hf : s.faultsAt 0 = false) :
    controllerStep s = .next { s.exchange tx cap with blk := (s.exchange tx cap).blk.advance } := by
  simp [controllerStep, h, State.perform, State.doXfer, hcs, hoe, hf, Performed.outcome]

/-- An exchange inside a program, its next state written out (R113, R120). -/
theorem controllerStep_xfer_inside {s : State} {tx : Byte} {cap : Bool} (h : s.blk.nextAction = some (.xfer tx cap))
    (hcs : s.blk.status.csLevel = false) (hoe : s.blk.status.csOe = true) (hf : s.faultsAt 0 = false)
    (hl : s.blk.seqPc + 1 ≠ s.blk.seq.length) :
    controllerStep s = .next
      { params := s.params
        blk := { s.blk with
          ser := ⟨0x00#8, s.answer, 8, false, tx.getLsbD 0⟩
          capture := if cap then s.answer else s.blk.capture
          xferIdx := s.blk.xferIdx + 1
          seqPc := s.blk.seqPc + 1
          trace := s.blk.trace ++ [.x tx s.answer] }
        dev := Device.clockIn 8 tx s.dev
        env := { s.env with phy := s.env.phy.drop 1 } } := by
  rw [controllerStep_xfer h hcs hoe hf,
    Block.advance_inside (b := (s.exchange tx cap).blk) (by rw [State.exchange_eq]; exact hl), State.exchange_eq]

theorem controllerStep_xfer_fault {s : State} {tx : Byte} {cap : Bool} (h : s.blk.nextAction = some (.xfer tx cap))
    (hcs : s.blk.status.csLevel = false) (hoe : s.blk.status.csOe = true) (hf : s.faultsAt 0 = true) :
    controllerStep s = .next (s.exchangeFault tx) := by
  simp [controllerStep, h, State.perform, State.doXfer, hcs, hoe, hf, Performed.outcome]

theorem controllerStep_settle {s : State} (h : s.blk.nextAction = some .settle) (hcs : s.blk.status.csLevel = true) :
    controllerStep s = .next { s with blk := (Block.emit { s.blk with settleCnt := 0 } .settle).advance } := by
  simp [controllerStep, h, State.perform, State.doSettle, hcs, Performed.outcome]

/-- All a controller step can do when it answers a next state (R120). -/
theorem controllerStep_cases {s t : State} (h : controllerStep s = .next t) :
    (s.blk.nextAction = none ∧ t = s) ∨
    (s.blk.nextAction = some .oe ∧ t = { s.enableCs with blk := s.enableCs.blk.advance }) ∨
    (∃ l, s.blk.nextAction = some (.cs l) ∧ t = { s.setCs l with blk := (s.setCs l).blk.advance }) ∨
    (∃ tx cap, s.blk.nextAction = some (.xfer tx cap) ∧ s.blk.status.csLevel = false ∧ s.blk.status.csOe = true ∧
      s.faultsAt 0 = false ∧ t = { s.exchange tx cap with blk := (s.exchange tx cap).blk.advance }) ∨
    (∃ tx cap, s.blk.nextAction = some (.xfer tx cap) ∧ s.blk.status.csLevel = false ∧ s.blk.status.csOe = true ∧
      s.faultsAt 0 = true ∧ t = s.exchangeFault tx) ∨
    (s.blk.nextAction = some .settle ∧ s.blk.status.csLevel = true ∧
      t = { s with blk := (Block.emit { s.blk with settleCnt := 0 } .settle).advance }) := by
  cases ha : s.blk.nextAction with
  | none => rw [controllerStep_idle ha] at h; cases h; exact .inl ⟨rfl, rfl⟩
  | some a =>
    cases a with
    | oe => rw [controllerStep_oe ha] at h; cases h; simp
    | cs l => rw [controllerStep_cs ha] at h; cases h; simp
    | xfer tx cap =>
      by_cases hcs : s.blk.status.csLevel = false
      · by_cases hoe : s.blk.status.csOe = true
        · cases hf : s.faultsAt 0
          · rw [controllerStep_xfer ha hcs hoe hf] at h; cases h
            exact .inr (.inr (.inr (.inl ⟨tx, cap, rfl, hcs, hoe, rfl, rfl⟩)))
          · rw [controllerStep_xfer_fault ha hcs hoe hf] at h; cases h
            exact .inr (.inr (.inr (.inr (.inl ⟨tx, cap, rfl, hcs, hoe, rfl, rfl⟩))))
        · simp [controllerStep, ha, State.perform, State.doXfer, hoe, Performed.outcome] at h
      · simp [controllerStep, ha, State.perform, State.doXfer, hcs, Performed.outcome] at h
    | settle =>
      by_cases hcs : s.blk.status.csLevel = true
      · rw [controllerStep_settle ha hcs] at h; cases h; simp [hcs]
      · simp [controllerStep, ha, State.perform, State.doSettle, hcs, Performed.outcome] at h

/-- The draws ahead move up by one when one is used. -/
theorem State.drawAt_useDraw (s t : State) (k : Nat) (he : t.env.phy = s.env.phy.drop 1) (hr : t.env.runNo = s.env.runNo)
    (hx : t.blk.xferIdx = s.blk.xferIdx + 1) : t.drawAt k = s.drawAt (k + 1) := by
  simp only [State.drawAt, he, hr, hx, List.getElem?_drop, Nat.add_comm 1 k, Nat.add_assoc]

end Sys2Proof.Machine
end

