-- ==== Sys2Proof/Laws/Commands.lean ====
section
/-! SUPPORT. The validation predicates as comparisons of numbers (R141), and the programs written out from the operands (R143 to
R145). -/

namespace Sys2Proof.Machine

theorem Block.addrOk_eq (b : Block) : b.addrOk = decide (b.addr.toNat ≤ 131071) := by
  simp [Block.addrOk, BitVec.ule, Config.addrMax]

theorem Block.valueOk_eq (b : Block) : b.valueOk = decide (b.wdata.toNat ≤ 255) := by
  simp [Block.valueOk, BitVec.ule, Config.dataMax]

theorem writeProgram_operands (a v : Word) (h : a.toNat ≤ 131071) :
    writeProgram (addrOperand a) (valueOperand v) =
      [.cs false, .xfer 0x02#8 false, .xfer (BitVec.ofNat 8 (a.toNat / 65536)) false,
        .xfer (BitVec.ofNat 8 (a.toNat / 256)) false, .xfer (BitVec.ofNat 8 a.toNat) false,
        .xfer (BitVec.ofNat 8 v.toNat) false, .cs true] := by
  simp [writeProgram, sendAll, enc3_addrOperand _ h, valueOperand_eq_ofNat]

theorem readProgram_operand (a : Word) (h : a.toNat ≤ 131071) :
    readProgram (addrOperand a) =
      [.cs false, .xfer 0x03#8 false, .xfer (BitVec.ofNat 8 (a.toNat / 65536)) false,
        .xfer (BitVec.ofNat 8 (a.toNat / 256)) false, .xfer (BitVec.ofNat 8 a.toNat) false, .xfer 0x00#8 true, .cs true] := by
  simp [readProgram, sendAll, enc3_addrOperand _ h, Config.readFill]

end Sys2Proof.Machine
end

