-- ==== Sys2Proof/Laws/Host.lean ====
section
/-! SUPPORT. Which host accesses reach a register, and which are stuck (R20, R56). -/

namespace Sys2Proof.Machine

/-- The accesses the contract admits: a word at an offset of the window that is a multiple of 4. -/
theorem State.inWindow_and_admits (s : State) (addr width : Nat) :
    (s.inWindow addr width = true ∧ s.admits addr width = true) ↔
      width = 4 ∧ ∃ off, off < 0x20 ∧ off % 4 = 0 ∧ addr = s.params.base + off := by
  simp only [State.inWindow, State.admits, Bool.and_eq_true, decide_eq_true_eq, beq_iff_eq]
  have hb : Config.windowBytes = 32 := rfl
  constructor
  · rintro ⟨⟨h1, h2⟩, ⟨hw, h3⟩, h4⟩
    exact ⟨hw, addr - s.params.base, by omega, h4, by omega⟩
  · rintro ⟨rfl, off, h1, h2, rfl⟩
    omega

/-- An aligned word at an offset of the window reaches it and is admitted. -/
theorem State.inWindow_offset (s : State) {off : Nat} (h : off < 0x20) : s.inWindow (s.params.base + off) 4 = true := by
  simp only [State.inWindow, Bool.and_eq_true, decide_eq_true_eq]
  have hb : Config.windowBytes = 32 := rfl
  omega

theorem State.admits_offset (s : State) {off : Nat} (h : off % 4 = 0) : s.admits (s.params.base + off) 4 = true := by
  simp [State.admits, h]

/-- An access that reaches the window and is not admitted is stuck (R56). -/
theorem hostStep_stuck {s : State} {addr width : Nat} (hw : s.inWindow addr width = true) (ha : s.admits addr width = false)
    (v : Word) :
    hostStep (.read addr width) s = .fault .hostAccessOutsideContract ∧
      hostStep (.write addr width v) s = .fault .hostAccessOutsideContract := by
  simp [hostStep, hw, ha]

end Sys2Proof.Machine
end

