-- ==== Sys2Proof/Laws/Invariant.lean ====
section
/-! SUPPORT. What the invariant says of the program and of the next action, how the device's part of it is kept by each device
operation, and the unfolding of a run of the controller. -/

namespace Sys2Proof.Machine

/-- The program, action by action. -/
theorem Block.seqFits_cases {b : Block} (h : b.seqFits) :
    (b.curOp = .none ∧ b.seq = []) ∨ (b.curOp = .init ∧ b.seq = initProgram) ∨
    (b.curOp = .write ∧ ∃ x y z v, b.seq =
      [.cs false, .xfer 0x02#8 false, .xfer x false, .xfer y false, .xfer z false, .xfer v false, .cs true]) ∨
    (b.curOp = .read ∧ ∃ x y z, b.seq =
      [.cs false, .xfer 0x03#8 false, .xfer x false, .xfer y false, .xfer z false, .xfer 0x00#8 true, .cs true]) := by
  unfold Block.seqFits at h
  cases hc : b.curOp <;> simp only [hc] at h
  · simp [h]
  · simp [h]
  · obtain ⟨a, v, h⟩ := h
    exact .inr (.inr (.inl ⟨rfl, _, _, _, _, h⟩))
  · obtain ⟨a, h⟩ := h
    exact .inr (.inr (.inr ⟨rfl, _, _, _, h⟩))

theorem csAfter_append (as : List Action) (a : Action) : ∀ l, csAfter (as ++ [a]) l = csAfter [a] (csAfter as l) := by
  induction as with
  | nil => intro l; rfl
  | cons x xs ih => intro l; cases x <;> simp [csAfter, ih]

theorem Block.take_next {b : Block} {a : Action} (ha : b.nextAction = some a) :
    b.seq.take (b.seqPc + 1) = b.seq.take b.seqPc ++ [a] := by
  rw [List.take_add_one, show b.seq[b.seqPc]? = some a from ha]
  rfl

theorem Block.nextAction_lt {b : Block} {a : Action} (ha : b.nextAction = some a) : b.seqPc < b.seq.length := by
  by_contra hc
  have : b.nextAction = none := by simp [Block.nextAction]; omega
  simp [this] at ha

/-- What the invariant says of the next action: a command runs, and the action's precondition holds (R115, R117). -/
theorem Block.Inv.next {b : Block} (h : b.Inv) {a : Action} (ha : b.nextAction = some a) :
    b.status.busy = true ∧ b.seqPc < b.seq.length ∧ b.curOp ≠ .none ∧
    (a = .oe → b.curOp = .init ∧ b.seqPc = 0 ∧ b.status.csLevel = true) ∧
    (∀ tx cap, a = .xfer tx cap → b.status.csLevel = false ∧ b.status.csOe = true ∧ b.seqPc + 1 < b.seq.length ∧
      (b.curOp = .init → 4 ≤ b.seqPc)) ∧
    (a = .settle → b.status.csLevel = true ∧ b.curOp = .init ∧ b.seqPc = 8) ∧
    (a = .cs false → b.seqPc + 1 < b.seq.length) ∧
    (a = .cs true → b.curOp = .init → b.seqPc = 3 → b.status.csLevel = false ∧ b.status.csOe = true) := by
  have hlt := Block.nextAction_lt ha
  have hcs := h.csFollows
  have hoe := h.oeDriven
  refine ⟨h.busyIff.2 hlt, hlt, ?_, ?_⟩
  · intro hn
    have := h.seqFits
    simp [Block.seqFits, hn] at this
    simp [this] at hlt
  rcases Block.seqFits_cases h.seqFits with ⟨hc, hs⟩ | ⟨hc, hs⟩ | ⟨hc, x, y, z, v, hs⟩ | ⟨hc, x, y, z, hs⟩
  · simp [hs] at hlt
  all_goals
    simp only [Block.nextAction] at ha
    rw [hc] at hoe
    rw [hs] at ha hcs hlt
    rw [hs, hc]
    generalize b.seqPc = pc at *
    generalize b.status.csLevel = l at *
    generalize b.status.csOe = oe at *
  · simp only [initProgram, List.length_cons, List.length_nil] at hlt
    have : pc = 0 ∨ pc = 1 ∨ pc = 2 ∨ pc = 3 ∨ pc = 4 ∨ pc = 5 ∨ pc = 6 ∨ pc = 7 ∨ pc = 8 := by omega
    rcases this with h | h | h | h | h | h | h | h | h <;> subst h <;>
      simp [initProgram, csAfter] at ha hcs hoe ⊢ <;> subst ha <;> simp_all
  · simp only [List.length_cons, List.length_nil] at hlt
    have : pc = 0 ∨ pc = 1 ∨ pc = 2 ∨ pc = 3 ∨ pc = 4 ∨ pc = 5 ∨ pc = 6 := by omega
    rcases this with h | h | h | h | h | h | h <;> subst h <;>
      simp [csAfter] at ha hcs hoe ⊢ <;> subst ha <;> simp_all
  · simp only [List.length_cons, List.length_nil] at hlt
    have : pc = 0 ∨ pc = 1 ∨ pc = 2 ∨ pc = 3 ∨ pc = 4 ∨ pc = 5 ∨ pc = 6 := by omega
    rcases this with h | h | h | h | h | h | h <;> subst h <;>
      simp [csAfter] at ha hcs hoe ⊢ <;> subst ha <;> simp_all

/-- Idle, the program is at its end (R37). -/
theorem Block.Inv.idle {b : Block} (h : b.Inv) (hb : b.status.busy = false) :
    b.seqPc = b.seq.length ∧ b.nextAction = none ∧ b.status.csLevel = csAfter b.seq true := by
  have hlen : b.seqPc = b.seq.length := by
    have := h.pcInSeq
    have := h.busyIff
    simp [hb] at this
    omega
  refine ⟨hlen, by simp [Block.nextAction, hlen], ?_⟩
  have hcs := h.csFollows
  rwa [hlen, List.take_length] at hcs

/-- Every program ends with CS high (R125). -/
theorem Block.seqFits_csAfter {b : Block} (h : b.seqFits) : csAfter b.seq true = true := by
  rcases Block.seqFits_cases h with ⟨hc, hs⟩ | ⟨hc, hs⟩ | ⟨hc, x, y, z, v, hs⟩ | ⟨hc, x, y, z, hs⟩ <;>
    simp [hs, csAfter, initProgram]

/-- The operand registers are free (R22, R23). -/
theorem Block.Inv.withOperands {b : Block} (h : b.Inv) (a v : Word) : Block.Inv { b with addr := a, wdata := v } :=
  ⟨h.seqFits, h.pcInSeq, h.busyIff, h.csFollows, h.oeDriven, h.initDriven, h.initCleared, h.initHeld, h.noErrorYet, h.rdataByte,
    h.sckIdle, h.bitsInByte, h.settleOnly⟩

theorem Block.advance_seqPc (b : Block) : b.advance.seqPc = b.seqPc + 1 := by
  by_cases hl : b.seqPc + 1 = b.seq.length
  · rw [Block.advance_last hl, Block.complete_eq]
  · rw [Block.advance_inside hl]

theorem Block.advance_curOp (b : Block) : b.advance.curOp = b.curOp := by
  by_cases hl : b.seqPc + 1 = b.seq.length
  · rw [Block.advance_last hl, Block.complete_eq]
  · rw [Block.advance_inside hl]

theorem Device.seeCs_awake {d : Device} (h : d.resp ≠ .asleep) (x y : Bool) : (d.seeCs x y).resp ≠ .asleep := by
  unfold Device.seeCs Device.csFall Device.csRise
  repeat' split
  all_goals simp_all [Device.enterUnknown]

theorem Device.frameStep_awake {d : Device} (h : d.resp ≠ .asleep) (bs : List Byte) : (d.frameStep bs).resp ≠ .asleep := by
  rcases d.frameStep_cases bs with e | e | e | e | ⟨_, _, _, _, _, _, e⟩ <;> rw [e] <;> simp [Device.enterUnknown, h]

theorem Device.sampleBit_awake {d : Device} (h : d.resp ≠ .asleep) (b : Bool) : (d.sampleBit b).resp ≠ .asleep := by
  unfold Device.sampleBit
  split
  · simp [Device.enterUnknown]
  · simp_all
  · dsimp only
    split
    · exact h
    · exact Device.frameStep_awake (d := { d with bitPos := 0, shift := 0x00#8 }) h _

theorem Device.clockIn_awake (n : Nat) :
    ∀ (tx : Byte) {d : Device}, d.resp ≠ .asleep → (Device.clockIn n tx d).resp ≠ .asleep := by
  induction n with
  | zero => intro _ _ h; exact h
  | succ n ih => intro tx d h; exact ih _ (Device.sampleBit_awake h _)

theorem Device.seeCs_inv {d : Device} (h : d.Inv) (x y : Bool) : (d.seeCs x y).Inv := by
  refine ⟨Device.seeCs_memWf _ _ h.memWf, ?_⟩
  have := h.bitInByte
  unfold Device.seeCs Device.csFall Device.csRise
  repeat' split
  all_goals simp [Device.enterUnknown, this]

theorem Device.clockIn_inv (n : Nat) (tx : Byte) {d : Device} (h : d.Inv) : (Device.clockIn n tx d).Inv :=
  ⟨Device.clockIn_memWf n tx d h.memWf, Device.clockIn_bitPos n tx d h.bitInByte⟩

theorem runController_zero (s : State) : runController 0 s = .next s := rfl

theorem runController_next {s t : State} (n : Nat) (h : controllerStep s = .next t) :
    runController (n + 1) s = runController n t := by
  simp [runController, h]

theorem runSteps_next {s t : State} (n : Nat) (h : step s = .next t) : runSteps (n + 1) s = runSteps n t := by
  simp [runSteps, h]

end Sys2Proof.Machine
end

