-- ==== Sys2Proof/Laws/PerInstr.lean ====
section
/-! SUPPORT. Statements about every instruction as syntax, one lemma per constructor. -/

namespace Sys2Proof.Laws.FrameLength

/-- What an instruction's encoding looks like (R80, R81, R84, R94): a host command is one word; a frame begins with an opcode of R160,
and the opcodes 0x01, 0x02 and 0x03 fix its length at 2, 5 and 5 bytes. -/
def Statement (i : Instr) : Prop :=
  (i.level = .host → ∃ w, encode i = .word w) ∧
  (i.level = .wire → ∃ op rest, encode i = .frame (op :: rest) ∧
    op ∈ [0x01#8, 0x02#8, 0x03#8, 0x05#8, 0x3B#8, 0x38#8, 0xFF#8] ∧
    (op = 0x01#8 → rest.length = 1) ∧ (op = 0x02#8 ∨ op = 0x03#8 → rest.length = 4))

theorem rsvd (rsv : BitVec 30) : Statement (.rsvd rsv) := ⟨fun _ => ⟨_, rfl⟩, nofun⟩

theorem init (rsv : BitVec 30) : Statement (.init rsv) := ⟨fun _ => ⟨_, rfl⟩, nofun⟩

theorem write (rsv : BitVec 30) : Statement (.write rsv) := ⟨fun _ => ⟨_, rfl⟩, nofun⟩

theorem read (rsv : BitVec 30) : Statement (.read rsv) := ⟨fun _ => ⟨_, rfl⟩, nofun⟩

theorem wrmr (mode : BitVec 2) (rsv : BitVec 6) : Statement (.wrmr mode rsv) :=
  ⟨nofun, fun _ => ⟨_, _, rfl, by decide, fun _ => rfl, fun h => absurd h (by decide)⟩⟩

theorem wireWrite (a : BitVec 24) (d : Byte) : Statement (.wireWrite a d) :=
  ⟨nofun, fun _ => ⟨_, _, rfl, by decide, fun h => absurd h (by decide), fun _ => rfl⟩⟩

theorem wireRead (a : BitVec 24) (fill : Byte) : Statement (.wireRead a fill) :=
  ⟨nofun, fun _ => ⟨_, _, rfl, by decide, fun h => absurd h (by decide), fun _ => rfl⟩⟩

theorem rdmr (rest : List Byte) : Statement (.rdmr rest) :=
  ⟨nofun, fun _ => ⟨_, _, rfl, by decide, fun h => absurd h (by decide), fun h => absurd h (by decide)⟩⟩

theorem edio (rest : List Byte) : Statement (.edio rest) :=
  ⟨nofun, fun _ => ⟨_, _, rfl, by decide, fun h => absurd h (by decide), fun h => absurd h (by decide)⟩⟩

theorem eqio (rest : List Byte) : Statement (.eqio rest) :=
  ⟨nofun, fun _ => ⟨_, _, rfl, by decide, fun h => absurd h (by decide), fun h => absurd h (by decide)⟩⟩

theorem rstio (rest : List Byte) : Statement (.rstio rest) :=
  ⟨nofun, fun _ => ⟨_, _, rfl, by decide, fun h => absurd h (by decide), fun h => absurd h (by decide)⟩⟩

end Sys2Proof.Laws.FrameLength
end

