-- ==== Sys2Proof/Tests/Slice0.lean ====
section
/-! SUPPORT. Tests of the model by hand calculation from the spec's encodings and vectors (95_test_vectors.md), and for each obligation
with hypotheses a concrete state and operands that meet them all. -/

namespace Sys2Proof.Tests

open Sys2Proof.Machine

/-! ## Small states -/

/-- The machine after reset, with a physical layer that does not fault (R11). -/
def fresh : State := { State.reset with params := { Params.initial with faults := false } }

/-- An initialized, idle block: the state INIT leaves (R143), STATUS 0x00000302. -/
def readyBlk : Block :=
  { Block.reset with
    status := { Status.reset with init := true, csOe := true }, curOp := .init, seq := initProgram, seqPc := 9 }

/-- The device as INIT leaves it: responsive, in Byte mode (V-DEV-1). -/
def readyDev : Device := { Device.powerUp with resp := .responsive, mode := .byte }

/-- Both together. -/
def ready : State := { fresh with blk := readyBlk, dev := readyDev }

/-- The operand registers loaded. -/
def load (s : State) (a v : Word) : State := { s with blk := { s.blk with addr := a, wdata := v } }

/-- Moves queued. -/
def queue (s : State) (ts : List Turn) : State := { s with env := { s.env with turns := ts } }

/-- The operands at the upper end of their ranges (R141). -/
def atLimits : State := load ready 0x0001FFFF#32 0x000000FF#32

/-- A WRITE of 0xFF to 0x1FFFF before its action `pc`, its CS latch at `level`. -/
def writing (pc : Nat) (level : Bool) : State :=
  { atLimits with
    blk := { atLimits.blk with
      curOp := .write, seq := writeProgram 0x1FFFF#17 0xFF#8, seqPc := pc
      status := { atLimits.blk.status with busy := true, csLevel := level } } }

/-- A READ before its last action. -/
def readingLast : State :=
  { ready with
    blk := { readyBlk with
      curOp := .read, seq := readProgram 0#17, seqPc := 6, capture := 0x80#8
      status := { readyBlk.status with busy := true, csLevel := false } } }

/-- An INIT before its action `pc`, its CS latch at `level`. -/
def initializing (pc : Nat) (level : Bool) : State :=
  { fresh with
    blk := { Block.reset with
      curOp := .init, seq := initProgram, seqPc := pc
      status := { Status.reset with busy := true, csLevel := level, csOe := true } }
    dev := { readyDev with mode := .other } }

/-- An INIT in `A_SETTLE`, SETTLE_CNT at `n`. -/
def settling (n : Nat) : State :=
  { initializing 8 true with blk := { (initializing 8 true).blk with settleCnt := n } }

/-- `n` exchanges that do not fault and one that does, after three of its bits. -/
def faultAt (s : State) (n : Nat) : State :=
  { s with
    params := Params.initial
    env := { s.env with
      phy := List.replicate n { fault := false, bits := 0, miso := 0x00#8 } ++ [{ fault := true, bits := 3, miso := 0x00#8 }] } }

/-- The device in another state. -/
def withDev (s : State) (d : Device) : State := { s with dev := d }

/-- The next state, if there is one. -/
def after (o : Host.Outcome State Fault Refusal) : Option State :=
  match o with
  | .next t => some t
  | .fault _ => none
  | .refused _ => none

/-- STATUS in the next state. -/
def statusAfter (o : Host.Outcome State Fault Refusal) : Option Word := (after o).map (fun t => t.blk.status.word)

/-- RESP in the next state. -/
def respAfter (o : Host.Outcome State Fault Refusal) : Option Resp := (after o).map (fun t => t.dev.resp)

/-- What the device's memory lists in the next state. -/
def memAfter (o : Host.Outcome State Fault Refusal) : Option Memory := (after o).map (fun t => t.dev.mem)

/-! ## Well-formedness: an ill-formed term for each check -/

theorem test_wf_reservedModeBits : (Instr.wrmr 0b00#2 0b000001#6).wf = false := by decide
theorem test_wf_reservedModeBits_ok : (Instr.wrmr 0b01#2 0b000000#6).wf = true := by decide
theorem test_wf_readFill : (Instr.wireRead 0#24 0xFF#8).wf = false := by decide
theorem test_wf_readFill_ok : (Instr.wireRead 0#24 0x00#8).wf = true := by decide
theorem test_wf_emitted_mode : (Instr.wrmr 0b10#2 0#6).emittedByBlock = false := by decide
theorem test_wf_emitted_addr : (Instr.wireWrite 0x020000#24 0#8).emittedByBlock = false := by decide

/-! ## Decoding: words written out from R81, R82 and R85 to R88 -/

theorem test_decode_rsvd : decodeHost 0b00000000000000000000000000000000#32 = .rsvd 0#30 := by decide
theorem test_decode_init : decodeHost 0b00000000000000000000000000000001#32 = .init 0#30 := by decide
theorem test_decode_write : decodeHost 0b10000000000000000000000000000110#32 = .write 0x20000001#30 := by decide
theorem test_decode_read : decodeHost 0b00000000000000000000000000000011#32 = .read 0#30 := by decide
theorem test_decode_wrmr : decodeFrame [0b00000001#8, 0b10000000#8] = .ok (.wrmr 0b10#2 0b000000#6) := by decide
theorem test_decode_wireWrite :
    decodeFrame [0b00000010#8, 0x12#8, 0x34#8, 0x56#8, 0x78#8] = .ok (.wireWrite 0x123456#24 0x78#8) := by decide
theorem test_decode_wireRead :
    decodeFrame [0b00000011#8, 0x01#8, 0x23#8, 0x45#8, 0x00#8] = .ok (.wireRead 0x012345#24 0x00#8) := by decide
theorem test_decode_rdmr : decodeFrame [0b00000101#8, 0xAA#8] = .ok (.rdmr [0xAA#8]) := by decide
theorem test_decode_edio : decodeFrame [0b00111011#8] = .ok (.edio []) := by decide
theorem test_decode_eqio : decodeFrame [0b00111000#8] = .ok (.eqio []) := by decide
theorem test_decode_rstio : decodeFrame [0b11111111#8] = .ok (.rstio []) := by decide
theorem test_decode_empty : decodeFrame [] = .rejected .emptyFrame := by decide
theorem test_decode_short : decodeFrame [0x02#8, 0x00#8, 0x00#8, 0x05#8] = .rejected (.wrongLength 0x02#8 4) := by decide
theorem test_decode_reserved : decodeFrame [0x01#8, 0x3F#8] = .rejected (.reservedModeBits 0x3F#8) := by decide
theorem test_decode_trace_mode : decodeTraceFrame [0x01#8, 0x40#8] = .rejected (.neverSentMode 0b01#2) := by decide
theorem test_decode_trace : decodeTraceFrame [0x05#8] = .rejected (.neverEmitted 0x05#8) := by decide
theorem test_table_word : decodeTableWord 32 0x00000002 = some (.write 0#30) := by decide
theorem test_table_frame : decodeTableWord 40 0x5A45230102 = some (.wireWrite 0x012345#24 0x5A#8) := by decide
theorem test_table_short : decodeTableWord 8 0x02 = some (.wireWrite 0#24 0#8) := by decide

/-! ## The address encoder (V-ENC) -/

theorem test_enc3_bit16 : enc3 0x10000#17 = [0x01#8, 0x00#8, 0x00#8] := by decide
theorem test_enc3_12345 : enc3 0x12345#17 = [0x01#8, 0x23#8, 0x45#8] := by decide

/-! ## The instructions -/

/-- V-CMD-3. -/
theorem test_rsvd_reset : statusAfter (exec (.rsvd 0#30) fresh) = some 0x00000140#32 := by decide
/-- V-CMD-4. -/
theorem test_rsvd_ready : statusAfter (exec (.rsvd 0#30) ready) = some 0x00000342#32 := by decide
/-- V-CMD-6. -/
theorem test_init_reset : statusAfter (exec (.init 0x3FFFFFFF#30) fresh) = some 0x00000101#32 := by decide
/-- V-INIT-2: INIT is cleared at accept. -/
theorem test_init_again : statusAfter (exec (.init 0#30) ready) = some 0x00000301#32 := by decide
/-- V-VAL, first row. -/
theorem test_write_limits : statusAfter (exec (.write 0#30) atLimits) = some 0x00000303#32 := by decide
/-- V-VAL: both checks fail. -/
theorem test_write_both : statusAfter (exec (.write 0#30) (load ready 0x00020000#32 0x00000100#32)) = some 0x0000030E#32 := by
  decide
/-- V-VAL: READ does not check WDATA. -/
theorem test_read_value : statusAfter (exec (.read 0#30) (load ready 0x0001FFFF#32 0x00000100#32)) = some 0x00000303#32 := by
  decide
/-- V-VAL, last row. -/
theorem test_read_preinit : statusAfter (exec (.read 0#30) (load fresh 0xFFFFFFFF#32 0#32)) = some 0x00000114#32 := by decide
/-- V-DEV-6. -/
theorem test_wrmr_other : respAfter (exec (.wrmr 0b01#2 0#6) ready) = some .unknown := by decide
/-- R161: the mode register takes Byte mode. -/
theorem test_wrmr_byte :
    (after (exec (.wrmr 0#2 0#6) (withDev fresh { readyDev with mode := .other }))).map (fun t => t.dev.mode) = some .byte := by
  decide
/-- V-DEV-2. -/
theorem test_wireWrite : memAfter (exec (.wireWrite 0x012345#24 0x5A#8) ready) = some [(0x12345, 0x5A#8)] := by decide
/-- V-DEV-4: the top 7 bits of the address are ignored. -/
theorem test_wireWrite_top : memAfter (exec (.wireWrite 0xFE0005#24 0x11#8) ready) = some [(0x00005, 0x11#8)] := by decide
/-- V-DEV-3. -/
theorem test_wireRead :
    (after (exec (.wireRead 0x012345#24 0x00#8) (withDev ready { readyDev with mem := [(0x12345, 0x5A#8)] }))).map
      (fun t => t.env.frameRx[4]?) = some (some 0x5A#8) := by decide
/-- V-DEV-8. -/
theorem test_wireRead_other :
    respAfter (exec (.wireRead 0#24 0x00#8) (withDev ready { readyDev with mode := .other })) = some .unknown := by decide
/-- V-DEV-7. -/
theorem test_rdmr : respAfter (exec (.rdmr [0x00#8]) ready) = some .unknown := by decide
/-- R72. -/
theorem test_edio : respAfter (exec (.edio []) ready) = some .unknown := by decide
/-- R72. -/
theorem test_eqio : respAfter (exec (.eqio []) ready) = some .unknown := by decide
/-- R72; a sleeping device ignores the frame (R67). -/
theorem test_rstio : respAfter (exec (.rstio []) ready) = some .unknown := by decide
theorem test_rstio_asleep : respAfter (exec (.rstio []) fresh) = some .responsive := by decide

/-! ## The frame engine and the registers -/

/-- V-INIT-1, step 1. -/
theorem test_oe :
    statusAfter (controllerStep { initializing 0 true with
      blk := { (initializing 0 true).blk with status := { Status.reset with busy := true } } }) = some 0x00000301#32 := by decide
/-- V-INIT-1, step 9. -/
theorem test_settle : statusAfter (controllerStep (initializing 8 true)) = some 0x00000302#32 := by decide
/-- V-WR: CS falls. -/
theorem test_cs_fall : statusAfter (controllerStep (writing 0 true)) = some 0x00000203#32 := by decide
/-- V-RD-4: no sign extension. -/
theorem test_read_completes : (after (controllerStep readingLast)).map (fun t => t.blk.rdata) = some 0x00000080#32 := by decide
/-- V-WR-F. -/
theorem test_fault : statusAfter (controllerStep (faultAt (writing 1 false) 0)) = some 0x00000322#32 := by decide
/-- V-BIT, first row: 0xA5 out, 0x3C in. -/
theorem test_serializer :
    (clockBits 8 0x3C#8 (Serializer.reset.load 0xA5#8, readyDev)).1 =
      { txSh := 0x00#8, rxSh := 0x3C#8, bits := 8, sck := false, mosi := true } := by decide
/-- V-INIT-5. -/
theorem test_settleLoad : settleLoad Params.initial = 2400 ∧ settleLoad { Params.initial with settleUs := 75, fClk := 10000000 } = 750 := by
  decide
/-- A run has ended whatever else than the host is queued, but not before the host's next access, nor while BUSY = 1 (R224). -/
theorem test_runEnded :
    (queue ready [.controller, .clock, .frame [], .reset 0, .wait]).runEnded = true ∧
    (queue ready [.clock, .wait]).runEnded = false ∧ (writing 1 false).runEnded = false := by decide
/-- V-CMD-1. -/
theorem test_read_status :
    (after (step (queue fresh [.host (.read 0x10 4)]))).map (fun t => t.env.hostRd) = some 0x00000100#32 := by decide
/-- V-CMD-11. -/
theorem test_busy_drop : statusAfter (step (queue (writing 1 false) [.host (.write 0x00 4 0x3#32)])) = some 0x00000283#32 := by
  decide
/-- V-DEV-5: a frame cut short. -/
theorem test_aborted : memAfter (step (queue ready [.frame [0x02#8, 0x00#8, 0x00#8, 0x05#8]])) = some [] := by decide

/-! ## Witnesses: for each obligation with hypotheses, values that meet them together -/

/-- A block that has only refused a command since reset (RSVD, R142), its device asleep. -/
def sleepy : State :=
  { fresh with blk := { Block.reset with status := { Status.reset with errCmd := true }, wdata := 0x000000FF#32 } }

/-- A device of which nothing is known. -/
def lostDev : Device := { Device.powerUp with resp := .unknown }

theorem readyBlk_inv : readyBlk.Inv where
  seqFits := rfl
  pcInSeq := by decide
  busyIff := by decide
  csFollows := by decide
  oeDriven := fun _ _ => rfl
  initDriven := fun _ => rfl
  initCleared := fun h => absurd h (by decide)
  initHeld := fun h => absurd h (by decide)
  noErrorYet := fun h => absurd h (by decide)
  rdataByte := by decide
  sckIdle := rfl
  bitsInByte := by decide
  settleOnly := fun h => absurd h (by decide)

theorem readyDev_awake : readyDev.Inv ∧ readyDev.resp ≠ .asleep := ⟨⟨rfl, by decide⟩, by decide⟩

/-- An idle, initialized machine keeps its invariant whatever the operand registers hold. -/
theorem ready_inv (p : Params) (e : Env) (a v : Word) :
    State.Inv { params := p, blk := { readyBlk with addr := a, wdata := v }, dev := readyDev, env := e } :=
  ⟨readyBlk_inv.withOperands a v, readyDev_awake.1, fun _ => readyDev_awake.2⟩

theorem sleepy_inv : sleepy.Inv where
  blk :=
    { seqFits := rfl
      pcInSeq := by decide
      busyIff := by decide
      csFollows := by decide
      oeDriven := fun h => absurd rfl h
      initDriven := fun h => absurd h (by decide)
      initCleared := fun h => absurd h (by decide)
      initHeld := fun h => absurd h (by decide)
      noErrorYet := fun h => absurd h (by decide)
      rdataByte := by decide
      sckIdle := rfl
      bitsInByte := by decide
      settleOnly := fun h => absurd h (by decide) }
  dev := ⟨rfl, by decide⟩
  awake := fun h => absurd h (by decide)

theorem lost_inv : (withDev atLimits lostDev).Inv :=
  ⟨readyBlk_inv.withOperands _ _, ⟨rfl, by decide⟩, fun _ => by decide⟩

theorem writing_inv : (writing 1 false).Inv where
  blk :=
    { seqFits := ⟨_, _, rfl⟩
      pcInSeq := by decide
      busyIff := by decide
      csFollows := by decide
      oeDriven := fun _ _ => rfl
      initDriven := fun _ => rfl
      initCleared := fun _ h => absurd h (by decide)
      initHeld := fun _ _ => rfl
      noErrorYet := fun _ => by decide
      rdataByte := by decide
      sckIdle := rfl
      bitsInByte := by decide
      settleOnly := fun h => absurd h (by decide) }
  dev := ⟨rfl, by decide⟩
  awake := fun _ => by decide

/-- No exchange of a machine with `P_FAULTS = false` faults (R13). -/
theorem noFault_of_faults (s : State) (n : Nat) (h : s.params.faults = false) : s.noFault n := by
  intro k _
  simp [State.faultsAt, h]

theorem faultAt_noFault (s : State) (n : Nat) : (faultAt s n).noFault n ∧ (faultAt s n).faultsAt n = true := by
  constructor
  · intro k hk
    simp [State.faultsAt, State.drawAt, faultAt, List.getElem?_append, hk]
  · simp [State.faultsAt, State.drawAt, faultAt, Params.initial]

theorem witness_DecodeEncodeAgree : 
    (Instr.wrmr 0b11#2 0#6).reservedModeBitsZero = true ∧ (0b000001#6 : BitVec 6) ≠ 0#6 ∧
    decodeFrame [0x01#8, 0xC0#8] = .ok (.wrmr 0b11#2 0#6) := by decide

theorem witness_CmdUpperBitsIgnored : (0x00000002#32 : Word).extractLsb' 0 2 = (0xFFFFFFFE#32 : Word).extractLsb' 0 2 := by
  decide

theorem witness_AddressEncoderProperties : enc3 0x1FFFF#17 = enc3 (BitVec.ofNat 17 131071) := by decide

theorem witness_TraceDecoderRefusesUnusedOpcodes :
    decodeTraceFrame [0x01#8, 0x00#8] = .ok (.wrmr 0#2 0#6) ∧ decodeTraceFrame [0xFF#8] ≠ .ok (.rstio []) := by decide

theorem witness_StepRunsDecodedInstruction :
    (queue ready [.host (.write 0 4 0xFFFFFFFE#32)]).env.turns = .host (.write ready.params.base 4 0xFFFFFFFE#32) :: [] ∧
    (queue ready [.frame [0x05#8]]).env.turns = .frame [0x05#8] :: [] ∧ decodeFrame [0x05#8] = .ok (.rdmr []) ∧
    decodeTableWord 32 0xFFFFFFFE = some (.write 0x3FFFFFFF#30) := by decide

theorem witness_StepRunsController :
    (queue ready [.controller]).env.turns = .controller :: [] ∧ ready.env.turns = [] ∧ ready.blk.status.busy = false := by decide

theorem witness_StepRunsController_inv : ready.Inv := ready_inv _ _ 0#32 0#32

theorem witness_ReservedOffsetsReadZero :
    (queue ready [.host (.read 0x14 4)]).env.turns = .host (.read (ready.params.base + 0x14) 4) :: [] ∧
    (queue ready [.host (.write 0x1C 4 0xFFFFFFFF#32)]).env.turns =
      .host (.write (ready.params.base + 0x1C) 4 0xFFFFFFFF#32) :: [] := by decide

theorem witness_RegisterReads :
    ((0x10, ready.blk.status.word) : Nat × Word) ∈
      [(0x00, 0x00000000#32), (0x04, ready.blk.addr), (0x08, ready.blk.wdata), (0x0C, ready.blk.rdata),
        (0x10, ready.blk.status.word)] ∧
    (queue ready [.host (.read 0x10 4)]).env.turns = .host (.read (ready.params.base + 0x10) 4) :: [] := by decide

theorem witness_RegisterWrites :
    ∀ off ∈ [0x04, 0x08, 0x0C, 0x10],
      (queue ready [.host (.write off 4 0xDEADBEEF#32)]).env.turns =
        .host (.write (ready.params.base + off) 4 0xDEADBEEF#32) :: [] := by decide

/-- A platform whose window does not begin at address 0. -/
def based : State := { ready with params := { ready.params with base := 0x100 } }

/-- The last byte of the window, a half word at its start, and words and double words that begin below it. -/
theorem witness_AccessOutsideContractIsStuck :
    ∀ a ∈ [(0x11F, 4), (0x100, 2), (0x100, 0), (0xFE, 4), (0xFD, 4), (0xFC, 8)],
      (a.1 < based.params.base + 0x20 ∧ based.params.base < a.1 + max 1 a.2 ∧
        (a.2 ≠ 4 ∨ a.1 < based.params.base ∨ (a.1 - based.params.base) % 4 ≠ 0)) ∧
      (queue based [.host (.read a.1 a.2)]).env.turns = .host (.read a.1 a.2) :: [] ∧
      (queue based [.host (.write a.1 a.2 0#32)]).env.turns = .host (.write a.1 a.2 0#32) :: [] := by decide

/-- An access that begins below the window and reaches CMD is stuck, and one that ends just below the window is none of the block's. -/
theorem test_straddle :
    (after (step (queue based [.host (.write 0xFE 4 0x1#32)]))).isNone = true ∧
    (after (step (queue based [.host (.write 0xFC 8 0x1#32)]))).isNone = true ∧
    statusAfter (step (queue based [.host (.write 0xFC 4 0x1#32)])) = some 0x00000302#32 ∧
    statusAfter (step (queue based [.host (.write 0x100 4 0x1#32)])) = some 0x00000301#32 := by decide

theorem witness_WaitPollsStatus :
    (queue (writing 1 false) [.wait]).env.turns = .wait :: [] ∧ (queue (writing 1 false) [.wait]).blk.status.busy = true ∧
    (queue ready [.wait]).env.turns = .wait :: [] ∧ (queue ready [.wait]).blk.status.busy = false := by decide

theorem witness_OperandsLatchedAtAccept :
    controllerStep ready = .next ready ∧ controllerStep (writing 1 true) = .fault .xferOutsideFrame := ⟨rfl, rfl⟩

theorem witness_RsvdSetsErrCmd :
    (0xFFFFFFFC#32 : Word).extractLsb' 0 2 = 0b00#2 ∧ ready.blk.status.busy = false ∧ (writing 1 false).blk.status.busy = true := by
  decide

theorem witness_BusyDropsEveryCommand : (writing 1 false).blk.status.busy = true := by decide

theorem witness_InitAccepted : fresh.blk.status.busy = false := by decide

theorem witness_WriteAccepted :
    atLimits.blk.status.busy = false ∧ atLimits.blk.status.init = true ∧ atLimits.blk.addr.toNat = 131071 ∧
      atLimits.blk.wdata.toNat = 255 := by decide

theorem witness_ReadAccepted :
    atLimits.blk.status.busy = false ∧ atLimits.blk.status.init = true ∧ atLimits.blk.addr.toNat ≤ 131071 := by decide

/-- Each check just fails, on its own. -/
theorem witness_WriteRefusedByChecks :
    (fresh.blk.status.busy = false ∧ fresh.blk.status.init = false) ∧
    ((load ready 0x00020000#32 0#32).blk.status.busy = false ∧ 131071 < (load ready 0x00020000#32 0#32).blk.addr.toNat) ∧
    ((load ready 0#32 0x00000100#32).blk.status.busy = false ∧ 255 < (load ready 0#32 0x00000100#32).blk.wdata.toNat) := by
  decide

theorem witness_ReadRefusedByChecks :
    (fresh.blk.status.busy = false ∧ fresh.blk.status.init = false) ∧
    ((load ready 0x00020000#32 0#32).blk.status.busy = false ∧ 131071 < (load ready 0x00020000#32 0#32).blk.addr.toNat) := by
  decide

theorem witness_AcceptStartsOrFlags : ready.blk.status.busy = false := by decide

theorem witness_HostCommandsFrame : ∃ t, exec (decodeHost 0x00000002#32) atLimits = .next t := ⟨_, rfl⟩

theorem witness_ValidationErrorsAreSilent :
    (∃ t, exec (.write 0#30) (load ready 0x00020000#32 0#32) = .next t ∧ t.blk.status.errAddr = true) ∧
    (∃ t, exec (.write 0#30) (load ready 0#32 0x00000100#32) = .next t ∧ t.blk.status.errValue = true) ∧
    (∃ t, exec (.read 0#30) fresh = .next t ∧ t.blk.status.errNoinit = true) :=
  ⟨⟨_, rfl, by decide⟩, ⟨_, rfl, by decide⟩, ⟨_, rfl, by decide⟩⟩

theorem witness_PinActionsWritePad :
    ((initializing 0 true).blk.nextAction = some .oe ∧ (initializing 0 true).blk.status.csLevel = true) ∧
    (writing 0 true).blk.nextAction = some (.cs false) ∧ (writing 6 false).blk.nextAction = some (.cs true) := by decide

theorem witness_ExchangeWithoutFault :
    (writing 5 false).blk.nextAction = some (.xfer 0xFF#8 false) ∧ (writing 5 false).blk.status.csLevel = false ∧
    (writing 5 false).blk.status.csOe = true ∧ (writing 5 false).faultsAt 0 = false ∧
    (withDev (writing 5 false) lostDev).faultsAt 0 = false ∧ (withDev (writing 5 false) lostDev).dev.resp = .unknown :=
  ⟨by decide, by decide, by decide, rfl, rfl, rfl⟩

theorem witness_SerializerBitByBit : (0 < 1 ∧ 1 ≤ 8) ∧ (0 < 8 ∧ 8 ≤ 8) := by decide

theorem witness_TransportFaultAborts :
    (faultAt (writing 1 false) 0).blk.nextAction = some (.xfer 0x02#8 false) ∧
    (faultAt (writing 1 false) 0).blk.status.csLevel = false ∧ (faultAt (writing 1 false) 0).blk.status.csOe = true ∧
    (faultAt (writing 1 false) 0).faultsAt 0 = true := by decide

theorem witness_CompletionByCurOp :
    (readingLast.blk.nextAction = some (.cs true) ∧ readingLast.blk.seqPc + 1 = readingLast.blk.seq.length ∧
      ∃ t, controllerStep readingLast = .next t) ∧
    ((initializing 8 true).blk.nextAction = some .settle ∧ ∃ t, controllerStep (initializing 8 true) = .next t) ∧
    ((writing 1 false).blk.nextAction = some (.xfer 0x02#8 false) ∧ (writing 1 false).faultsAt 0 = false ∧
      (writing 1 false).blk.seqPc + 1 ≠ (writing 1 false).blk.seq.length ∧ ∃ t, controllerStep (writing 1 false) = .next t) :=
  ⟨⟨by decide, by decide, _, rfl⟩, ⟨by decide, _, rfl⟩, ⟨by decide, rfl, by decide, _, rfl⟩⟩

theorem witness_SettleCounterCountsClocks :
    ((settling 0).blk.nextAction = some .settle ∧ (settling 0).blk.settleCnt = 0 ∧ 0 < settleLoad (settling 0).params) ∧
    ((settling 2).blk.nextAction = some .settle ∧ 1 < (settling 2).blk.settleCnt) ∧
    ((settling 1).blk.nextAction = some .settle ∧ (settling 1).blk.settleCnt = 1 ∧ (settling 1).blk.status.csLevel = true) := by
  decide

theorem witness_InitRunsToCompletion :
    atLimits.Inv ∧ atLimits.blk.status.busy = false ∧ atLimits.noFault 2 ∧ atLimits.dev.resp ≠ .unknown :=
  ⟨ready_inv _ _ _ _, rfl, noFault_of_faults _ _ rfl, by decide⟩

/-- The device asleep: the pulse wakes it. -/
theorem witness_InitRunsToCompletion_asleep :
    sleepy.Inv ∧ sleepy.blk.status.busy = false ∧ sleepy.noFault 2 ∧ sleepy.dev.resp = .asleep :=
  ⟨sleepy_inv, rfl, noFault_of_faults _ _ rfl, rfl⟩

theorem witness_WriteRunsToCompletion :
    atLimits.Inv ∧ atLimits.blk.status.busy = false ∧ atLimits.blk.status.init = true ∧ atLimits.blk.addr.toNat ≤ 131071 ∧
    atLimits.blk.wdata.toNat ≤ 255 ∧ atLimits.noFault 5 ∧ atLimits.dev.resp = .responsive ∧ atLimits.dev.modeIsByte = true :=
  ⟨ready_inv _ _ _ _, rfl, rfl, by decide, by decide, noFault_of_faults _ _ rfl, rfl, by decide⟩

theorem witness_ReadRunsToCompletion :
    (atLimits.Inv ∧ atLimits.blk.status.busy = false ∧ atLimits.blk.status.init = true ∧ atLimits.blk.addr.toNat ≤ 131071 ∧
      atLimits.noFault 5 ∧ atLimits.dev.resp = .responsive ∧ atLimits.dev.modeIsByte = true) ∧
    ((withDev atLimits lostDev).Inv ∧ (withDev atLimits lostDev).noFault 5 ∧ (withDev atLimits lostDev).dev.resp = .unknown) :=
  ⟨⟨ready_inv _ _ _ _, rfl, rfl, by decide, noFault_of_faults _ _ rfl, rfl, by decide⟩,
    ⟨lost_inv, noFault_of_faults _ _ rfl, rfl⟩⟩

/-- The opcode of a READ faults. -/
theorem witness_FaultDuringFrame_first :
    (faultAt ready 0).Inv ∧ (faultAt ready 0).blk.status.busy = false ∧ (faultAt ready 0).blk.status.init = true ∧
    (faultAt ready 0).blk.addr.toNat ≤ 131071 ∧ (faultAt ready 0).noFault 0 ∧ (faultAt ready 0).faultsAt 0 = true :=
  ⟨ready_inv _ _ 0#32 0#32, rfl, rfl, by decide, (faultAt_noFault _ 0).1, (faultAt_noFault _ 0).2⟩

/-- The last exchange of a WRITE faults. -/
theorem witness_FaultDuringFrame :
    (faultAt atLimits 4).Inv ∧ (faultAt atLimits 4).blk.status.busy = false ∧ (faultAt atLimits 4).blk.status.init = true ∧
    (faultAt atLimits 4).blk.addr.toNat ≤ 131071 ∧ (faultAt atLimits 4).blk.wdata.toNat ≤ 255 ∧
    (faultAt atLimits 4).noFault 4 ∧ (faultAt atLimits 4).faultsAt 4 = true :=
  ⟨ready_inv _ _ _ _, rfl, rfl, by decide, by decide, (faultAt_noFault _ 4).1, (faultAt_noFault _ 4).2⟩

/-- The mode byte faults. -/
theorem witness_FaultDuringInit :
    (faultAt ready 1).Inv ∧ (faultAt ready 1).blk.status.busy = false ∧ (faultAt ready 1).noFault 1 ∧
    (faultAt ready 1).faultsAt 1 = true :=
  ⟨ready_inv _ _ 0#32 0#32, rfl, (faultAt_noFault _ 1).1, (faultAt_noFault _ 1).2⟩

/-- The opcode faults, the device asleep before INIT. -/
theorem witness_FaultDuringInit_first :
    (faultAt sleepy 0).Inv ∧ (faultAt sleepy 0).blk.status.busy = false ∧ (faultAt sleepy 0).noFault 0 ∧
    (faultAt sleepy 0).faultsAt 0 = true :=
  ⟨⟨sleepy_inv.blk, sleepy_inv.dev, sleepy_inv.awake⟩, rfl, (faultAt_noFault _ 0).1, (faultAt_noFault _ 0).2⟩

theorem witness_EveryCommandEnds : (writing 1 false).Inv ∧ (writing 1 false).blk.status.busy = true := ⟨writing_inv, rfl⟩

/-- Between the two commands the host reads a reserved register and writes WDATA, and a clock passes. -/
def betweenCommands : List Turn := [.host (.read 0x1C 4), .host (.write 0x08 4 0xFFFFFFFF#32), .clock]

def roundTrip : State :=
  queue ready
    ([.host (.write 0x04 4 0x0001FFFF#32), .host (.write 0x08 4 0x000000FF#32), .host (.write 0x00 4 0x00000002#32)] ++
      List.replicate 7 .controller ++ betweenCommands ++ [.host (.write 0x00 4 0xFFFFFFFF#32)] ++
      List.replicate 7 .controller ++ [.host (.read 0x0C 4)])

theorem witness_RoundTripLaw :
    (roundTrip.blk.status.busy = false ∧ roundTrip.blk.status.init = true ∧ roundTrip.dev.resp = .responsive ∧
      roundTrip.dev.modeIsByte = true) ∧
    (0x0001FFFF#32 : Word).toNat ≤ 131071 ∧ (0x000000FF#32 : Word).toNat ≤ 255 ∧
    (0x00000002#32 : Word).extractLsb' 0 2 = 0b10#2 ∧ (0xFFFFFFFF#32 : Word).extractLsb' 0 2 = 0b11#2 ∧
    (∀ t ∈ betweenCommands, roundTrip.harmless t = true) ∧
    roundTrip.env.turns =
      [.host (.write (roundTrip.params.base + 0x04) 4 0x0001FFFF#32), .host (.write (roundTrip.params.base + 0x08) 4 0x000000FF#32),
        .host (.write roundTrip.params.base 4 0x00000002#32)] ++ List.replicate 7 .controller ++ betweenCommands ++
        [.host (.write roundTrip.params.base 4 0xFFFFFFFF#32)] ++ List.replicate 7 .controller ++
        [.host (.read (roundTrip.params.base + 0x0C) 4)] := by decide

theorem witness_RoundTripLaw_inv : roundTrip.Inv ∧ roundTrip.noFault 10 :=
  ⟨ready_inv _ _ 0#32 0#32, noFault_of_faults _ _ rfl⟩

theorem witness_BlockFramesActAsWireFrames :
    atLimits.Inv ∧ atLimits.blk.status.busy = false ∧ atLimits.noFault 5 ∧ atLimits.blk.status.init = true ∧
    atLimits.blk.addr.toNat ≤ 131071 ∧ atLimits.blk.wdata.toNat ≤ 255 :=
  ⟨ready_inv _ _ _ _, rfl, noFault_of_faults _ _ rfl, rfl, by decide, by decide⟩

theorem witness_WireFramesLeaveTheBlock :
    (Instr.rdmr []).level = .wire ∧ ∃ t, exec (.rdmr []) ready = .next t := ⟨rfl, _, rfl⟩

theorem witness_ModeFrameSelectsByteMode :
    ready.blk.csLine = true ∧ ready.dev.resp = .responsive ∧ ((0#2 : BitVec 2) = 0#2 ∧ (0#6 : BitVec 6) = 0#6) ∧
    ¬((0#2 : BitVec 2) = 0#2 ∧ (1#6 : BitVec 6) = 0#6) := by decide

theorem witness_ModeFrameSelectsByteMode_step :
    (queue ready [.frame [0x01#8, 0x01#8]]).env.turns = .frame [0x01#8, 0x01#8] :: [] ∧ (0x01#8 : Byte) ≠ 0x00#8 ∧
    (queue ready [.frame [0x01#8, 0x01#8]]).blk.csLine = true ∧
    (queue ready [.frame [0x01#8, 0x01#8]]).dev.resp = .responsive := by decide

theorem witness_WriteFrameWritesCell :
    (ready.blk.csLine = true ∧ ready.dev.resp = .responsive ∧ ready.dev.modeIsByte = true) ∧
    ((withDev ready { readyDev with mode := .other }).dev.resp = .responsive ∧
      (withDev ready { readyDev with mode := .other }).dev.modeIsByte = false) := by decide

theorem witness_ReadFrameAnswersCell :
    (ready.blk.csLine = true ∧ ready.dev.resp = .responsive ∧ ready.dev.modeIsByte = true) ∧
    ((withDev ready { readyDev with mode := .other }).dev.resp = .responsive ∧
      (withDev ready { readyDev with mode := .other }).dev.modeIsByte = false) := by decide

theorem witness_UnusedOpcodesMakeDeviceUnknown :
    ready.blk.csLine = true ∧ ready.dev.resp = .responsive ∧ (0x00#8 : Byte) ≠ 0x01#8 ∧ (0x00#8 : Byte) ≠ 0x02#8 ∧
    (0x00#8 : Byte) ≠ 0x03#8 ∧ (queue ready [.frame [0x00#8]]).env.turns = .frame [0x00#8] :: [] := by decide

theorem witness_SleepingDeviceIgnoresFrames :
    (Instr.wireRead 0#24 0#8).level = .wire ∧ fresh.blk.csLine = true ∧ fresh.dev.resp = .asleep := by decide

/-- A mode-set frame cut short while `MODE = Other`. -/
theorem witness_AbortedFramesChangeNothing_other :
    let s := withDev (queue ready [.frame [0x01#8]]) { readyDev with mode := .other }
    s.blk.csLine = true ∧ s.dev.resp = .responsive ∧ s.dev.modeIsByte = false ∧ s.env.turns = .frame [0x01#8] :: [] := by decide

/-- One byte short of complete, for each opcode. -/
theorem witness_AbortedFramesChangeNothing :
    ([] : List Byte).length < 1 ∧ [0x00#8, 0x00#8, 0x05#8].length < 4 ∧ ready.blk.csLine = true ∧ ready.dev.resp = .responsive ∧
    ready.dev.modeIsByte = true ∧ (queue ready [.frame [0x01#8]]).env.turns = .frame [0x01#8] :: [] ∧
    (queue ready [.frame [0x03#8, 0x00#8, 0x00#8, 0x05#8]]).env.turns = .frame [0x03#8, 0x00#8, 0x00#8, 0x05#8] :: [] := by decide

/-- One byte too many, for each length. -/
theorem witness_OverlongFramesMakeDeviceUnknown :
    1 < [0x00#8, 0x00#8].length ∧ 4 < [0x00#8, 0x00#8, 0x05#8, 0x11#8, 0x12#8].length ∧ ready.blk.csLine = true ∧
    ready.dev.resp = .responsive ∧
    (queue ready [.frame [0x01#8, 0x00#8, 0x00#8]]).env.turns = .frame [0x01#8, 0x00#8, 0x00#8] :: [] ∧
    (queue ready [.frame [0x02#8, 0x00#8, 0x00#8, 0x05#8, 0x11#8, 0x12#8]]).env.turns =
      .frame [0x02#8, 0x00#8, 0x00#8, 0x05#8, 0x11#8, 0x12#8] :: [] := by decide

theorem witness_FramesAtAnUnknowableDevice :
    (Instr.eqio []).level = .wire ∧ (withDev ready lostDev).dev.resp = .unknown ∧ (writing 1 false).blk.csLine = false := by decide

theorem witness_UnknownDeviceStaysUnknown :
    (∃ t, step (withDev ready lostDev) = .next t) ∧ (withDev ready lostDev).dev.resp = .unknown := ⟨⟨_, rfl⟩, rfl⟩

theorem witness_ResetValues :
    (queue (writing 1 false) [.reset 7]).env.turns = .reset 7 :: [] ∧ (queue ready [.reset 0]).env.turns = .reset 0 :: [] ∧
    (queue ready [.reset 0]).blk.csLine = true := by decide

theorem witness_ResetAbortsFrame :
    (queue (writing 1 false) [.reset 7]).env.turns = .reset 7 :: [] ∧ (queue (writing 1 false) [.reset 7]).blk.csLine = false ∧
    (queue (writing 1 false) [.reset 7]).dev.resp = .responsive ∧ (queue (writing 1 false) [.reset 7]).dev.bitPos = 0 := by decide

theorem witness_StepKeepsInvariant : (writing 1 false).Inv ∧ ∃ t, step (writing 1 false) = .next t := ⟨writing_inv, _, rfl⟩

theorem witness_OnlyHostAccessStops :
    (queue ready [.host (.read 0x02 4)]).Inv ∧
    step (queue ready [.host (.read 0x02 4)]) = .fault .hostAccessOutsideContract := ⟨ready_inv _ _ 0#32 0#32, rfl⟩

theorem witness_ExchangesOnlyInsideFrames :
    ((writing 1 false).Inv ∧ (writing 1 false).blk.nextAction = some (.xfer 0x02#8 false)) ∧
    ((writing 1 true).blk.nextAction = some (.xfer 0x02#8 false) ∧ (writing 1 true).blk.status.csLevel = true) ∧
    ((initializing 8 false).blk.nextAction = some .settle ∧ (initializing 8 false).blk.status.csLevel = false) :=
  ⟨⟨writing_inv, by decide⟩, by decide, by decide⟩

theorem witness_ExchangesOnlyInsideFrames_settle :
    (initializing 8 true).Inv ∧ (initializing 8 true).blk.nextAction = some .settle :=
  ⟨{ blk :=
      { seqFits := rfl
        pcInSeq := by decide
        busyIff := by decide
        csFollows := by decide
        oeDriven := fun _ _ => rfl
        initDriven := fun _ => rfl
        initCleared := fun _ _ => rfl
        initHeld := fun _ h => absurd rfl h
        noErrorYet := fun _ => by decide
        rdataByte := by decide
        sckIdle := rfl
        bitsInByte := by decide
        settleOnly := fun h => absurd h (by decide) }
     dev := ⟨rfl, by decide⟩
     awake := fun _ => by decide }, by decide⟩

/-- The latch changes by `A_CS`, by the release after a fault, and by reset. -/
theorem witness_ChipSelectOwnership :
    (∃ t, step (writing 0 true) = .next t ∧ t.blk.status.csLevel ≠ true) ∧
    (∃ t, step (faultAt (writing 1 false) 0) = .next t ∧ t.blk.status.csLevel ≠ false) ∧
    (∃ t, step (queue (writing 1 false) [.reset 0]) = .next t ∧ t.blk.status.csLevel ≠ false) :=
  ⟨⟨_, rfl, by decide⟩, ⟨_, rfl, by decide⟩, ⟨_, rfl, by decide⟩⟩

theorem witness_RdataChangesOnlyByRead :
    (∃ t, step readingLast = .next t ∧ t.blk.rdata ≠ readingLast.blk.rdata) ∧
    (∃ t, step (queue { ready with blk := { readyBlk with rdata := 0xA7#32 } } [.reset 0]) = .next t ∧ t.blk.rdata ≠ 0xA7#32) :=
  ⟨⟨_, rfl, by decide⟩, ⟨_, rfl, by decide⟩⟩

theorem witness_InitFlagLifeCycle :
    (∃ t, step (initializing 8 true) = .next t ∧ t.blk.status.init = true) ∧ (initializing 8 true).blk.status.init = false ∧
    (∃ t, step (queue ready [.host (.write 0x00 4 0x1#32)]) = .next t ∧ t.blk.status.init = false) ∧
    (∃ t, step (queue ready [.reset 0]) = .next t ∧ t.blk.status.init = false) ∧ ready.blk.status.init = true :=
  ⟨⟨_, rfl, by decide⟩, by decide, ⟨_, rfl, by decide⟩, ⟨_, rfl, by decide⟩, by decide⟩

/-- The flag is cleared by an accept, and by reset. -/
theorem witness_ErrorFlagsSticky :
    let s : State := { ready with blk := { readyBlk with status := { readyBlk.status with errXport := true } } }
    s.blk.status.flag .xport = true ∧
    (∃ t, step (queue s [.host (.write 0x00 4 0x1#32)]) = .next t ∧ t.blk.status.flag .xport = false) ∧
    (∃ t, step (queue s [.reset 0]) = .next t ∧ t.blk.status.flag .xport = false) :=
  ⟨by decide, ⟨_, rfl, by decide⟩, ⟨_, rfl, by decide⟩⟩

theorem witness_TraceGrowsByTheController :
    (∃ t, step (faultAt (writing 1 false) 0) = .next t ∧ t.blk.trace = [.xf 0x02#8, .cs true]) ∧
    (∃ t, step (settling 1) = .next t ∧ t.blk.trace = [.settle]) := ⟨⟨_, rfl, by decide⟩, ⟨_, rfl, by decide⟩⟩

end Sys2Proof.Tests
end

section
/-! One step as the move at the head of the queue, and one lemma per kind of move saying all it can do: the instruction that is
executed, the host's access, the frame at the pins, the clock. -/

namespace Sys2Proof.Machine

/-- The move at the head of the queue is the step, in the state whose queue has moved on. -/
theorem step_of_turns_cons {s : State} {m : Turn} {rest : List Turn} (h : s.env.turns = m :: rest) :
    step s = runTurn m { s with env := { s.env with turns := rest } } := by
  simp [step, State.nextTurn, State.popTurn, h]

/-- A state with an empty queue is its own state after the move is taken off. -/
theorem State.popTurn_of_turns_nil {s : State} (h : s.env.turns = []) : s.popTurn = s := by
  rw [State.popTurn, h, List.drop_nil, ← h]

theorem step_of_turns_nil {s : State} (h : s.env.turns = []) : step s = controllerStep s := by
  rw [step, State.popTurn_of_turns_nil h, State.nextTurn, h]
  rfl

/-- The step of a state that a move has just been put before. -/
theorem step_pushTurn (s : State) (m : Turn) : step (s.pushTurn m) = runTurn m s := rfl

/-- What a host command does after the accept (R142 to R145). -/
def commandStarts : List (Block → Block) := [Block.startRsvd, Block.startInit, Block.startWrite, Block.startRead]

/-- Every instruction answers a next state: a host command is an accept, a frame acts at the device's pins. -/
theorem exec_cases (i : Instr) (s : State) :
    (∃ start ∈ commandStarts, exec i s = .next { s with blk := Block.accept start s.blk }) ∨
    (∃ bytes, encode i = .frame bytes ∧ exec i s = .next (s.frame bytes)) := by
  cases i with
  | rsvd => exact .inl ⟨Block.startRsvd, by simp [commandStarts], rfl⟩
  | init => exact .inl ⟨Block.startInit, by simp [commandStarts], rfl⟩
  | write => exact .inl ⟨Block.startWrite, by simp [commandStarts], rfl⟩
  | read => exact .inl ⟨Block.startRead, by simp [commandStarts], rfl⟩
  | wrmr | wireWrite | wireRead | rdmr | edio | eqio | rstio => exact .inr ⟨_, rfl, rfl⟩

/-- An aligned word written at an offset of the window arrives there (R20, R56). -/
theorem hostStep_write_offset (s : State) {off : Nat} (v : Word) (hlt : off < 0x20) (hal : off % 4 = 0) :
    hostStep (.write (s.params.base + off) 4 v) s = writeOffset off v s := by
  simp [hostStep, s.inWindow_offset hlt, s.admits_offset hal]

/-- A word written to CMD runs the instruction it names (R140). -/
theorem hostStep_write_cmd (s : State) (w : Word) : hostStep (.write s.params.base 4 w) s = exec (decodeHost w) s :=
  hostStep_write_offset s (off := 0) w (by decide) (by decide)

theorem frameTurn_ok {bytes : List Byte} {i : Instr} (h : decodeFrame bytes = .ok i) (s : State) :
    frameTurn bytes s = exec i s := by
  simp [frameTurn, h]

theorem frameTurn_rejected {bytes : List Byte} {e : DecodeError} (h : decodeFrame bytes = .rejected e) (s : State) :
    frameTurn bytes s = .next (s.frame bytes) := by
  simp [frameTurn, h]

theorem decodeTableWord_eq_some {nbits w : Nat} {i : Instr} (h : decodeTableWord nbits w = some i) :
    decode (tableFetched nbits w) = .ok i := by
  unfold decodeTableWord at h
  cases hd : decode (tableFetched nbits w) with
  | ok j => simpa [hd] using h
  | rejected e => simp [hd] at h

/-- The move by which a fetched instruction arrives executes it, on either level (R80). -/
theorem runTurn_turnOf {f : Fetched} {i : Instr} (s : State) (h : decode f = .ok i) : runTurn (s.turnOf f) s = exec i s := by
  cases f with
  | word w =>
    cases h
    exact hostStep_write_cmd s w
  | frame bytes => exact frameTurn_ok h s

/-- All a host access can do when it answers a next state: it misses the window, or it is an aligned word read or written (R56). -/
theorem hostStep_cases {op : HostOp} {s t : State} (h : hostStep op s = .next t) :
    t = s ∨
    (∃ off, off < 0x20 ∧ off % 4 = 0 ∧ op = .read (s.params.base + off) 4 ∧
      t = { s with env := { s.env with hostRd := s.blk.regRead off } }) ∨
    (∃ off v, off < 0x20 ∧ off % 4 = 0 ∧ op = .write (s.params.base + off) 4 v ∧ writeOffset off v s = .next t) := by
  cases op with
  | read addr width =>
    cases hw : s.inWindow addr width
    · left; simpa [hostStep, hw] using h.symm
    · cases ha : s.admits addr width
      · simp [hostStep, hw, ha] at h
      · obtain ⟨rfl, off, hlt, hal, rfl⟩ := (s.inWindow_and_admits addr width).1 ⟨hw, ha⟩
        exact .inr (.inl ⟨off, hlt, hal, rfl, by simpa [hostStep, hw, ha] using h.symm⟩)
  | write addr width v =>
    cases hw : s.inWindow addr width
    · left; simpa [hostStep, hw] using h.symm
    · cases ha : s.admits addr width
      · simp [hostStep, hw, ha] at h
      · obtain ⟨rfl, off, hlt, hal, rfl⟩ := (s.inWindow_and_admits addr width).1 ⟨hw, ha⟩
        exact .inr (.inr ⟨off, v, hlt, hal, rfl, by rwa [hostStep_write_offset s v hlt hal] at h⟩)

/-- What SETTLE_CNT holds after one clock of `A_SETTLE` (R41). -/
def State.clockCount (s : State) : Nat := if s.blk.settleCnt = 0 then settleLoad s.params else s.blk.settleCnt - 1

/-- All a clock can do when it answers a next state: nothing outside `A_SETTLE`, else it counts, and at 0 the action ends
(R41, R117). -/
theorem clockStep_cases {s t : State} (h : clockStep s = .next t) :
    (s.blk.nextAction ≠ some .settle ∧ t = s) ∨
    (s.blk.nextAction = some .settle ∧ s.clockCount ≠ 0 ∧ t = { s with blk := { s.blk with settleCnt := s.clockCount } }) ∨
    (s.blk.nextAction = some .settle ∧ s.clockCount = 0 ∧
      controllerStep { s with blk := { s.blk with settleCnt := 0 } } = .next t) := by
  by_cases ha : s.blk.nextAction = some .settle
  · have hstep : clockStep s = if s.clockCount = 0 then controllerStep { s with blk := { s.blk with settleCnt := 0 } }
        else .next { s with blk := { s.blk with settleCnt := s.clockCount } } := if_pos ha
    rw [hstep] at h
    by_cases hn : s.clockCount = 0
    · rw [if_pos hn] at h
      exact .inr (.inr ⟨ha, hn, h⟩)
    · rw [if_neg hn] at h
      cases h
      exact .inr (.inl ⟨ha, hn, rfl⟩)
  · have hstep : clockStep s = .next s := if_neg ha
    rw [hstep] at h
    cases h
    exact .inl ⟨ha, rfl⟩

end Sys2Proof.Machine
end

section
/-! The trace of the run (R14, R211): which operations append to it, and how much. -/

namespace Sys2Proof.Machine

@[simp] theorem Block.advance_trace (b : Block) : b.advance.trace = b.trace := by
  by_cases hl : b.seqPc + 1 = b.seq.length
  · rw [Block.advance_last hl, Block.complete_eq]
  · rw [Block.advance_inside hl]

@[simp] theorem Block.regWrite_trace (b : Block) (off : Nat) (v : Word) : (b.regWrite off v).trace = b.trace := by
  unfold Block.regWrite
  split
  · rfl
  · split <;> rfl

@[simp] theorem Block.startWrite_trace (b : Block) : b.startWrite.trace = b.trace := by
  unfold Block.startWrite
  split <;> rfl

@[simp] theorem Block.startRead_trace (b : Block) : b.startRead.trace = b.trace := by
  unfold Block.startRead
  split <;> rfl

/-- Nothing goes on the bus in the step of a CMD write (R140). -/
theorem Block.accept_trace {start : Block → Block} (hs : start ∈ commandStarts) (b : Block) :
    (Block.accept start b).trace = b.trace := by
  have hstart : ∀ b : Block, (start b).trace = b.trace := by
    simp only [commandStarts, List.mem_cons, List.not_mem_nil, or_false] at hs
    rcases hs with rfl | rfl | rfl | rfl <;> intro b
    · rfl
    · rfl
    · exact b.startWrite_trace
    · exact b.startRead_trace
  cases hb : b.status.busy
  · rw [Block.accept_idle hb, hstart]
  · rw [Block.accept_busy hb, Block.raise_trace]

theorem exec_trace {i : Instr} {s t : State} (h : exec i s = .next t) : t.blk.trace = s.blk.trace := by
  obtain ⟨start, hs, e⟩ | ⟨bytes, -, e⟩ := exec_cases i s <;> rw [e] at h <;> cases h
  · exact Block.accept_trace hs s.blk
  · rfl

theorem writeOffset_trace {off : Nat} {v : Word} {s t : State} (h : writeOffset off v s = .next t) :
    t.blk.trace = s.blk.trace := by
  unfold writeOffset at h
  split at h
  · exact exec_trace h
  · cases h
    exact s.blk.regWrite_trace off v

theorem hostStep_trace {op : HostOp} {s t : State} (h : hostStep op s = .next t) : t.blk.trace = s.blk.trace := by
  obtain rfl | ⟨_, _, _, _, rfl⟩ | ⟨_, _, _, _, _, hw⟩ := hostStep_cases h
  · rfl
  · rfl
  · exact writeOffset_trace hw

theorem waitStep_trace {s t : State} (h : waitStep s = .next t) : t.blk.trace = s.blk.trace := by
  cases h
  rfl

theorem frameTurn_trace {bytes : List Byte} {s t : State} (h : frameTurn bytes s = .next t) :
    t.blk.trace = s.blk.trace := by
  cases hd : decodeFrame bytes with
  | ok i => exact exec_trace (frameTurn_ok hd s ▸ h)
  | rejected e =>
    rw [frameTurn_rejected hd] at h
    cases h
    rfl

/-- The controller appends the event of its action, and after a fault the release of CS (R113, R120, R122). -/
theorem controllerStep_trace {s t : State} (h : controllerStep s = .next t) :
    ∃ es, t.blk.trace = s.blk.trace ++ es ∧ es.length ≤ 2 := by
  obtain ⟨-, rfl⟩ | ⟨-, rfl⟩ | ⟨l, -, rfl⟩ | ⟨tx, cap, -, -, -, -, rfl⟩ | ⟨tx, cap, -, hcs, hoe, -, rfl⟩ | ⟨-, -, rfl⟩ :=
    controllerStep_cases h
  · exact ⟨[], by simp, by decide⟩
  · exact ⟨[.oe], by simp, by simp⟩
  · exact ⟨[.cs l], by simp, by simp⟩
  · exact ⟨[.x tx s.answer], by simp [State.exchange_eq], by simp⟩
  · obtain ⟨ser, d, e, -⟩ := s.exchangeFault_eq tx hcs hoe
    exact ⟨[.xf tx, .cs true], by rw [e], by simp⟩
  · exact ⟨[.settle], by simp, by simp⟩

/-- A clock that only counts appends nothing; the one that ends `A_SETTLE` appends what the controller does (log 13). -/
theorem clockStep_trace {s t : State} (h : clockStep s = .next t) :
    ∃ es, t.blk.trace = s.blk.trace ++ es ∧ es.length ≤ 2 := by
  obtain ⟨-, rfl⟩ | ⟨-, -, rfl⟩ | ⟨-, -, hc⟩ := clockStep_cases h
  · exact ⟨[], by simp, by decide⟩
  · exact ⟨[], by simp, by decide⟩
  · obtain ⟨es, htrace, hlen⟩ := controllerStep_trace hc
    exact ⟨es, htrace, hlen⟩

/-- A move that leaves the trace alone has appended no event. -/
theorem trace_grows_of_eq {s t : State} {p : Prop} (h : t.blk.trace = s.blk.trace) :
    ∃ es : List Event, t.blk.trace = s.blk.trace ++ es ∧ es.length ≤ 2 ∧ (es ≠ [] → p) :=
  ⟨[], by simp [h], by decide, fun hne => absurd rfl hne⟩

/-- What each move does to the trace. -/
theorem runTurn_trace {m : Turn} {s t : State} (h : runTurn m s = .next t) :
    (∃ es : List Event, t.blk.trace = s.blk.trace ++ es ∧ es.length ≤ 2 ∧ (es ≠ [] → m = .controller ∨ m = .clock)) ∨
    (∃ bits, m = .reset bits ∧ t.blk.trace = []) := by
  cases m with
  | host op => exact .inl (trace_grows_of_eq (hostStep_trace h))
  | wait => exact .inl (trace_grows_of_eq (waitStep_trace h))
  | frame bytes => exact .inl (trace_grows_of_eq (frameTurn_trace h))
  | controller =>
    obtain ⟨es, htrace, hlen⟩ := controllerStep_trace h
    exact .inl ⟨es, htrace, hlen, fun _ => .inl rfl⟩
  | clock =>
    obtain ⟨es, htrace, hlen⟩ := clockStep_trace h
    exact .inl ⟨es, htrace, hlen, fun _ => .inr rfl⟩
  | reset bits =>
    cases h
    exact .inr ⟨bits, rfl, rfl⟩

end Sys2Proof.Machine
end

section
/-! The statements of the spec's scope: who appends to the trace, and what a step runs. -/

namespace Sys2Proof.Machine

/-- Settles O60: a step is one move, and taking it off the queue leaves the block alone. -/
theorem traceGrowsByTheController : Obligations.TraceGrowsByTheController := by
  intro s t h
  exact runTurn_trace (m := s.nextTurn) (s := s.popTurn) h

/-- Settles O7: each clause is the move at the head of the queue, which executes what it decodes to. -/
theorem stepRunsDecodedInstruction : Obligations.StepRunsDecodedInstruction := by
  refine ⟨fun s w rest h => ?_, fun s bytes i rest h hd => ?_, fun s nbits w i hd => ?_⟩
  · exact (step_of_turns_cons h).trans (hostStep_write_cmd _ w)
  · exact (step_of_turns_cons h).trans (frameTurn_ok hd _)
  · exact (step_pushTurn s _).trans (runTurn_turnOf s (decodeTableWord_eq_some hd))

/-- Settles O8: idle, the invariant says that no action is next. -/
theorem stepRunsController : Obligations.StepRunsController := by
  refine ⟨fun s rest h => step_of_turns_cons h, fun s h => step_of_turns_nil h, fun s hinv hidle => ?_⟩
  obtain ⟨-, hnone, -⟩ := hinv.blk.idle hidle
  exact controllerStep_idle hnone

end Sys2Proof.Machine
end

section
/-! The host's registers: STATUS bit by bit (R25 to R35), and an aligned word read at an offset of the window (R20, R59). -/

namespace Sys2Proof.Machine

/-- A flag's weight has that bit and no other. -/
theorem flagBit_getLsbD (b : Bool) {k i : Nat} (hi : i < 32) : (flagBit b k).getLsbD i = (b && decide (i = k)) := by
  cases b
  · simp [flagBit]
  · rcases lt_trichotomy i k with h | rfl | h
    · simp [flagBit, h, h.ne]
    · simp [flagBit, hi]
    · simp [flagBit, hi, h.ne', Nat.not_lt.2 h.le]
      omega

/-- Bit `i` of STATUS is the flag whose bit it is. -/
theorem Status.word_getLsbD (st : Status) {i : Nat} (hi : i < 32) :
    st.word.getLsbD i =
      (st.busy && decide (i = 0) || st.init && decide (i = 1) || st.errAddr && decide (i = 2) || st.errValue && decide (i = 3) ||
        st.errNoinit && decide (i = 4) || st.errXport && decide (i = 5) || st.errCmd && decide (i = 6) ||
        st.errBusy && decide (i = 7) || st.csLevel && decide (i = 8) || st.csOe && decide (i = 9)) := by
  simp only [Status.word, BitVec.getLsbD_or, flagBit_getLsbD _ hi]

/-- Each cause's flag stands at its code (R45, R180). -/
theorem Status.word_getLsbD_code (st : Status) (e : Err) : st.word.getLsbD e.code = st.flag e := by
  have hlt : e.code < 32 := by cases e <;> decide
  rw [Status.word_getLsbD st hlt]
  cases e <;> simp [Err.code, Status.flag]

/-- `STATUS[31:10]` reads 0 (R35). -/
theorem Status.word_reserved (st : Status) : st.word.extractLsb' 10 22 = 0#22 := by
  apply BitVec.eq_of_getLsbD_eq
  intro i hi
  have hne : ∀ k, k < 10 → 10 + i ≠ k := by omega
  simp [Status.word_getLsbD st (i := 10 + i) (by omega), hi, hne]

/-- An aligned word read at an offset of the window is the register there, and only the host's record of it changes (R59). -/
theorem hostStep_read_offset (s : State) {off : Nat} (hlt : off < 0x20) (hal : off % 4 = 0) :
    hostStep (.read (s.params.base + off) 4) s = .next { s with env := { s.env with hostRd := s.blk.regRead off } } := by
  simp [hostStep, s.inWindow_offset hlt, s.admits_offset hal]

/-- The step of a read at the head of the queue. -/
theorem step_read_offset {s : State} {off : Nat} {rest : List Turn} (hlt : off < 0x20) (hal : off % 4 = 0)
    (h : s.env.turns = .host (.read (s.params.base + off) 4) :: rest) :
    step s = .next { s with env := { s.env with turns := rest, hostRd := s.blk.regRead off } } :=
  (step_of_turns_cons h).trans (hostStep_read_offset { s with env := { s.env with turns := rest } } hlt hal)

/-- The step of a write at the head of the queue, at any offset but CMD's. -/
theorem step_write_offset {s : State} {off : Nat} {v : Word} {rest : List Turn} (hlt : off < 0x20) (hal : off % 4 = 0)
    (hcmd : off ≠ 0x00) (h : s.env.turns = .host (.write (s.params.base + off) 4 v) :: rest) :
    step s = .next { s with blk := s.blk.regWrite off v, env := { s.env with turns := rest } } :=
  calc step s
    _ = writeOffset off v { s with env := { s.env with turns := rest } } :=
      (step_of_turns_cons h).trans (hostStep_write_offset { s with env := { s.env with turns := rest } } v hlt hal)
    _ = .next { s with blk := s.blk.regWrite off v, env := { s.env with turns := rest } } := if_neg hcmd

/-- Settles O9, bit by bit. -/
theorem statusWordLayout : Obligations.StatusWordLayout := by
  intro st
  refine ⟨?_, ?_, ?_, ?_, ?_, ?_, ?_, ?_, ?_, ?_, st.word_getLsbD_code, st.word_reserved⟩ <;>
    exact (st.word_getLsbD (by decide)).trans (by simp)

/-- Settles O10: no register stands at a reserved offset, so a read falls through to 0 and a write to the block itself. -/
theorem reservedOffsetsReadZero : Obligations.ReservedOffsetsReadZero := by
  intro s off v rest hoff
  have hread : s.blk.regRead off = 0x00000000#32 := by rcases hoff with rfl | rfl | rfl <;> rfl
  have hwrite : s.blk.regWrite off v = s.blk := by rcases hoff with rfl | rfl | rfl <;> rfl
  refine ⟨fun h => ?_, fun h => ?_⟩
  · rw [step_read_offset (by omega) (by omega) h, hread]
  · rw [step_write_offset (by omega) (by omega) (by omega) h, hwrite]

/-- Settles O11: the register map, offset by offset. -/
theorem registerReads : Obligations.RegisterReads := by
  intro s off v rest hmem h
  have hmap : off < 0x20 ∧ off % 4 = 0 ∧ s.blk.regRead off = v := by
    simp only [List.mem_cons, List.not_mem_nil, or_false, Prod.mk.injEq] at hmem
    rcases hmem with ⟨rfl, rfl⟩ | ⟨rfl, rfl⟩ | ⟨rfl, rfl⟩ | ⟨rfl, rfl⟩ | ⟨rfl, rfl⟩ <;>
      exact ⟨by decide, by decide, rfl⟩
  obtain ⟨hlt, hal, hv⟩ := hmap
  rw [step_read_offset hlt hal h, hv]

/-- Settles O12: each clause is a write at its offset. -/
theorem registerWrites : Obligations.RegisterWrites := by
  intro s v rest
  exact ⟨step_write_offset (by decide) (by decide) (by decide), step_write_offset (by decide) (by decide) (by decide),
    step_write_offset (by decide) (by decide) (by decide), step_write_offset (by decide) (by decide) (by decide)⟩

end Sys2Proof.Machine
end

section
/-! What each kind of move does to the block, said once: a command accepted, an action performed, the advance, the fault, and the
moves that leave all but the operands and SETTLE_CNT alone. -/

namespace Sys2Proof.Machine

theorem Block.advance_eq (b : Block) :
    b.advance =
      { b with
        seqPc := b.seqPc + 1
        rdata := if b.seqPc + 1 = b.seq.length ∧ b.curOp = .read then b.capture.zext32 else b.rdata
        status := { b.status with
          init := decide (b.seqPc + 1 = b.seq.length ∧ b.curOp = .init) || b.status.init
          busy := decide (b.seqPc + 1 ≠ b.seq.length) && b.status.busy } } := by
  by_cases hl : b.seqPc + 1 = b.seq.length
  · rw [Block.advance_last hl, Block.complete_eq]
    simp [hl]
  · rw [Block.advance_inside hl]
    simp [hl]

/-- What an action performed without a fault does to the block before SEQ_PC moves (R111 to R117): the pad is written by `A_OE` and
`A_CS` alone, `A_SETTLE` ends with SETTLE_CNT at 0, an exchange leaves the serializer between bytes; the program, RDATA and the
other flags keep their values. -/
structure ActionEffect (a : Action) (b b' : Block) : Prop where
  seq : b'.seq = b.seq
  seqPc : b'.seqPc = b.seqPc
  curOp : b'.curOp = b.curOp
  rdata : b'.rdata = b.rdata
  status : b'.status =
    { b.status with csLevel := csAfter [a] b.status.csLevel, csOe := decide (a = .oe) || b.status.csOe }
  settleCnt : b'.settleCnt = if a = .settle then 0 else b.settleCnt
  sck : b.ser.sck = false → b'.ser.sck = false
  bits : b.ser.bits ≤ 8 → b'.ser.bits ≤ 8

theorem State.enableCs_effect (s : State) : ActionEffect .oe s.blk s.enableCs.blk := by
  constructor <;> simp [csAfter]

theorem State.setCs_effect (s : State) (l : Bool) : ActionEffect (.cs l) s.blk (s.setCs l).blk := by
  constructor <;> simp [csAfter]

theorem State.exchange_effect (s : State) (tx : Byte) (cap : Bool) :
    ActionEffect (.xfer tx cap) s.blk (s.exchange tx cap).blk := by
  rw [State.exchange_eq]
  constructor <;> simp [csAfter]

theorem Block.settle_effect (b : Block) : ActionEffect .settle b (Block.emit { b with settleCnt := 0 } .settle) := by
  constructor <;> simp [csAfter]

/-- All a controller step can do to the block: nothing when idle; an action and the advance; an abort (R120, R122). -/
theorem controllerStep_blk_cases {s t : State} (h : controllerStep s = .next t) :
    (s.blk.nextAction = none ∧ t.blk = s.blk) ∨
    (∃ a b, s.blk.nextAction = some a ∧ ActionEffect a s.blk b ∧ t.blk = b.advance) ∨
    (∃ tx cap ser trace, s.blk.nextAction = some (.xfer tx cap) ∧ s.blk.status.csOe = true ∧ ser.bits < 8 ∧
      (s.blk.ser.sck = false → ser.sck = false) ∧
      t.blk = { s.blk with
        ser := ser
        xferIdx := s.blk.xferIdx + 1
        seqPc := s.blk.seq.length
        status := { s.blk.status with csLevel := true, errXport := true, busy := false }
        trace := trace }) := by
  obtain ⟨ha, rfl⟩ | ⟨ha, rfl⟩ | ⟨l, ha, rfl⟩ | ⟨tx, cap, ha, -, -, -, rfl⟩ | ⟨tx, cap, ha, hcs, hoe, -, rfl⟩ | ⟨ha, -, rfl⟩ :=
    controllerStep_cases h
  · exact .inl ⟨ha, rfl⟩
  · exact .inr (.inl ⟨_, _, ha, s.enableCs_effect, rfl⟩)
  · exact .inr (.inl ⟨_, _, ha, s.setCs_effect l, rfl⟩)
  · exact .inr (.inl ⟨_, _, ha, s.exchange_effect tx cap, rfl⟩)
  · obtain ⟨ser, d, e, -, -, -, hbits, hsck⟩ := s.exchangeFault_eq tx hcs hoe
    exact .inr (.inr ⟨tx, cap, ser, _, ha, hoe, hbits, hsck, by rw [e]⟩)
  · exact .inr (.inl ⟨_, _, ha, s.blk.settle_effect, rfl⟩)

/-- What a command does after the accept (R142 to R145): it writes error flags only, or its program starts, INIT with STATUS.INIT
cleared and the others on an initialized block. -/
theorem Block.start_cases {start : Block → Block} (hs : start ∈ commandStarts) (b : Block) :
    (∃ st, st.clearErrors = b.status.clearErrors ∧ start b = { b with status := st }) ∨
    (start = Block.startInit ∧
      start b = Block.startProgram { b with status := { b.status with init := false } } .init initProgram) ∨
    (∃ op seq, op ≠ .none ∧ op ≠ .init ∧ b.status.init = true ∧ (b.startProgram op seq).seqFits ∧
      start b = b.startProgram op seq) := by
  have hraise : ∀ (st : Status) ok e, (st.raiseUnless ok e).clearErrors = st.clearErrors := by
    intro st ok e
    cases ok <;> cases e <;> rfl
  simp only [commandStarts, List.mem_cons, List.not_mem_nil, or_false] at hs
  rcases hs with rfl | rfl | rfl | rfl
  · exact .inl ⟨b.status.raise .cmd, rfl, rfl⟩
  · exact .inr (.inl ⟨rfl, rfl⟩)
  · by_cases hok : (b.initOk && b.addrOk && b.valueOk) = true
    · have hinit : b.status.init = true := by simp_all [Block.initOk]
      exact .inr (.inr ⟨.write, _, by decide, by decide, hinit, ⟨_, _, rfl⟩, if_pos hok⟩)
    · exact .inl ⟨_, by simp only [hraise], if_neg hok⟩
  · by_cases hok : (b.initOk && b.addrOk) = true
    · have hinit : b.status.init = true := by simp_all [Block.initOk]
      exact .inr (.inr ⟨.read, _, by decide, by decide, hinit, ⟨_, rfl⟩, if_pos hok⟩)
    · exact .inl ⟨_, by simp only [hraise], if_neg hok⟩

/-- Only INIT's start sets `CUR_OP` to INIT on a block that has just been reset, so no other start is INIT's. -/
theorem Block.startInit_unique : Block.startRsvd ≠ Block.startInit ∧ Block.startWrite ≠ Block.startInit ∧
    Block.startRead ≠ Block.startInit := by
  have hne : ∀ start : Block → Block, (start Block.reset).curOp ≠ .init → start ≠ Block.startInit := by
    rintro _ h rfl
    exact h rfl
  exact ⟨hne _ (by decide), hne _ (by decide), hne _ (by decide)⟩

/-- The command a CMD word names (R82, R140): it accepts with its own start, which is INIT's only where `OP = 0b01`. -/
theorem exec_decodeHost (w : Word) (s : State) :
    ∃ start ∈ commandStarts, exec (decodeHost w) s = .next { s with blk := Block.accept start s.blk } ∧
      (start = Block.startInit → w.extractLsb' 0 2 = 0b01#2) := by
  obtain ⟨hrsvd, hwrite, hread⟩ := Block.startInit_unique
  unfold decodeHost
  dsimp only
  split_ifs with h0 h1 h2
  · exact ⟨Block.startRsvd, by simp [commandStarts], rfl, fun h => absurd h hrsvd⟩
  · exact ⟨Block.startInit, by simp [commandStarts], rfl, fun _ => h1⟩
  · exact ⟨Block.startWrite, by simp [commandStarts], rfl, fun h => absurd h hwrite⟩
  · exact ⟨Block.startRead, by simp [commandStarts], rfl, fun h => absurd h hread⟩

/-- A register write at any offset but CMD's writes an operand or nothing (R22, R23, R36). -/
theorem Block.regWrite_operands (b : Block) (off : Nat) (v : Word) :
    ∃ a d, b.regWrite off v = { b with addr := a, wdata := d } := by
  unfold Block.regWrite
  split
  · exact ⟨v, b.wdata, rfl⟩
  · split
    · exact ⟨b.addr, v, rfl⟩
    · exact ⟨b.addr, b.wdata, rfl⟩

/-- The frame decoder reads no host command (R80). -/
theorem decodeFrame_level {bytes : List Byte} {i : Instr} (h : decodeFrame bytes = .ok i) : i.level = .wire := by
  unfold decodeFrame decodeModeFrame decodeWriteFrame decodeReadFrame at h
  repeat' split at h
  all_goals cases h <;> rfl

/-- An instruction of the wire level is a frame at the device's pins (R84). -/
theorem exec_wire {i : Instr} (h : i.level = .wire) (s : State) : ∃ bytes, exec i s = .next (s.frame bytes) := by
  cases i with
  | rsvd | init | write | read => cases h
  | wrmr | wireWrite | wireRead | rdmr | edio | eqio | rstio => exact ⟨_, rfl⟩

/-- Whether a decoder accepts them or not, the bytes driven at the pins act as a frame (R68 to R72). -/
theorem frameTurn_frame (bytes : List Byte) (s : State) : ∃ bytes', frameTurn bytes s = .next (s.frame bytes') := by
  cases hd : decodeFrame bytes with
  | ok i => exact (frameTurn_ok hd s).symm ▸ exec_wire (decodeFrame_level hd) s
  | rejected e => exact ⟨bytes, frameTurn_rejected hd s⟩

/-- All a move can do when it answers a next state: write operands, or act at the device's pins, with the rest of the block left
alone; run the command of a CMD word; perform an action; count a clock; reset (R15). -/
theorem runTurn_cases {m : Turn} {s t : State} (h : runTurn m s = .next t) :
    (∃ a v env, t = { s with blk := { s.blk with addr := a, wdata := v }, env := env }) ∨
    (∃ bytes, t = s.frame bytes) ∨
    (∃ w, m = .host (.write s.params.base 4 w) ∧ exec (decodeHost w) s = .next t) ∨
    (m = .controller ∧ controllerStep s = .next t) ∨
    (m = .clock ∧ clockStep s = .next t) ∨
    (∃ bits, m = .reset bits ∧ t = s.applyReset bits) := by
  cases m with
  | host op =>
    obtain rfl | ⟨off, -, -, -, rfl⟩ | ⟨off, v, -, -, rfl, hw⟩ := hostStep_cases h
    · exact .inl ⟨_, _, _, rfl⟩
    · exact .inl ⟨_, _, _, rfl⟩
    · by_cases hoff : off = 0x00
      · subst hoff
        exact .inr (.inr (.inl ⟨v, rfl, hw⟩))
      · have hreg : Host.Outcome.next { s with blk := s.blk.regWrite off v } = .next t := (if_neg hoff).symm.trans hw
        cases hreg
        obtain ⟨a, d, e⟩ := s.blk.regWrite_operands off v
        exact .inl ⟨a, d, s.env, by rw [e]⟩
  | wait =>
    cases h
    exact .inl ⟨_, _, _, rfl⟩
  | frame bytes =>
    obtain ⟨bytes', e⟩ := frameTurn_frame bytes s
    cases e.symm.trans h
    exact .inr (.inl ⟨bytes', rfl⟩)
  | controller => exact .inr (.inr (.inr (.inl ⟨rfl, h⟩)))
  | clock => exact .inr (.inr (.inr (.inr (.inl ⟨rfl, h⟩))))
  | reset bits =>
    cases h
    exact .inr (.inr (.inr (.inr (.inr ⟨bits, rfl, rfl⟩))))

end Sys2Proof.Machine
end

section
/-! The block's part of the invariant, one lemma per kind of move. -/

namespace Sys2Proof.Machine

theorem Block.reset_inv : Block.reset.Inv where
  seqFits := rfl
  pcInSeq := by decide
  busyIff := by decide
  csFollows := rfl
  oeDriven := fun h => absurd rfl h
  initDriven := fun h => absurd h (by decide)
  initCleared := fun h => absurd h (by decide)
  initHeld := fun h => absurd h (by decide)
  noErrorYet := fun h => absurd h (by decide)
  rdataByte := by decide
  sckIdle := rfl
  bitsInByte := by decide
  settleOnly := fun h => absurd h (by decide)

theorem Byte.zext32_lt (b : Byte) : b.zext32.toNat < 256 := by
  have := b.isLt
  simp only [Byte.zext32, BitVec.toNat_setWidth]
  omega

/-- Two values of STATUS that agree once the error flags are cleared agree on every other flag. -/
theorem Status.eq_of_clearErrors_eq {st st' : Status} (h : st.clearErrors = st'.clearErrors) :
    st.busy = st'.busy ∧ st.init = st'.init ∧ st.csLevel = st'.csLevel ∧ st.csOe = st'.csOe := by
  simpa [Status.clearErrors] using h

/-- Error flags may be written freely while no command runs; while one runs, all but ERR_BUSY read 0 (R219). -/
theorem Block.Inv.withErrors {b : Block} (h : b.Inv) {st : Status} (hst : st.clearErrors = b.status.clearErrors)
    (herr : st.busy = true →
      st.errAddr = false ∧ st.errValue = false ∧ st.errNoinit = false ∧ st.errXport = false ∧ st.errCmd = false) :
    Block.Inv { b with status := st } := by
  obtain ⟨hbusy, hinit, hlevel, hoe⟩ := Status.eq_of_clearErrors_eq hst
  exact
    { seqFits := h.seqFits
      pcInSeq := h.pcInSeq
      busyIff := hbusy ▸ h.busyIff
      csFollows := hlevel.trans h.csFollows
      oeDriven := hoe ▸ h.oeDriven
      initDriven := hoe ▸ hinit ▸ h.initDriven
      initCleared := hbusy ▸ hinit ▸ h.initCleared
      initHeld := hbusy ▸ hinit ▸ h.initHeld
      noErrorYet := herr
      rdataByte := h.rdataByte
      sckIdle := h.sckIdle
      bitsInByte := h.bitsInByte
      settleOnly := h.settleOnly }

/-- Idle, CS is high (R33, R125). -/
theorem Block.Inv.csHigh {b : Block} (h : b.Inv) (hidle : b.status.busy = false) : b.status.csLevel = true := by
  obtain ⟨-, -, hcs⟩ := h.idle hidle
  exact hcs.trans (Block.seqFits_csAfter h.seqFits)

/-- SETTLE_CNT is 0 unless `A_SETTLE` is next (R41). -/
theorem Block.Inv.settleCnt_eq_zero {b : Block} (h : b.Inv) (hne : b.nextAction ≠ some .settle) : b.settleCnt = 0 :=
  Nat.eq_zero_of_not_pos fun hpos => hne (h.settleOnly hpos)

/-- A program starts on an idle block: INIT with STATUS.INIT cleared, another one where it is set (R140, R143 to R145). -/
theorem Block.Inv.startProgram {b : Block} (h : b.Inv) (hidle : b.status.busy = false) {op : CurOp} {seq : List Action}
    {init : Bool} (hinit : (op = .init ∧ init = false) ∨ (op ≠ .init ∧ init = true ∧ b.status.init = true))
    (hop : op ≠ .none) (hfits : (b.startProgram op seq).seqFits) :
    Block.Inv (Block.startProgram { b with status := { b.status.clearErrors with init := init } } op seq) := by
  obtain ⟨-, hnone, -⟩ := h.idle hidle
  have hsettle : b.settleCnt = 0 := h.settleCnt_eq_zero (by simp [hnone])
  have hnil : seq ≠ [] := by
    rintro rfl
    rcases Block.seqFits_cases hfits with ⟨hc, -⟩ | ⟨-, hs⟩ | ⟨-, _, _, _, _, hs⟩ | ⟨-, _, _, _, hs⟩
    · exact hop hc
    · cases hs
    · cases hs
    · cases hs
  exact
    { seqFits := hfits
      pcInSeq := Nat.zero_le _
      busyIff := iff_of_true rfl (List.length_pos_iff.2 hnil)
      csFollows := h.csHigh hidle
      oeDriven := fun _ hpc => by
        obtain ⟨hc, -⟩ | ⟨-, -, hi⟩ := hinit
        · exact absurd (hpc hc) (by simp)
        · exact h.initDriven hi
      initDriven := fun hi => by
        obtain ⟨-, hf⟩ | ⟨-, -, hi'⟩ := hinit
        · exact absurd (hf.symm.trans hi) (by decide)
        · exact h.initDriven hi'
      initCleared := fun _ hc => by
        obtain ⟨-, hf⟩ | ⟨hne, -⟩ := hinit
        · exact hf
        · exact absurd hc hne
      initHeld := fun _ hc => by
        obtain ⟨hc', -⟩ | ⟨-, hi, -⟩ := hinit
        · exact absurd hc' hc
        · exact hi
      noErrorYet := fun _ => ⟨rfl, rfl, rfl, rfl, rfl⟩
      rdataByte := h.rdataByte
      sckIdle := h.sckIdle
      bitsInByte := h.bitsInByte
      settleOnly := fun hpos => absurd hsettle hpos.ne' }

/-- A CMD write: dropped and flagged while a command runs, else the start of a command (R140, R146). -/
theorem Block.Inv.accept {b : Block} (h : b.Inv) {start : Block → Block} (hs : start ∈ commandStarts) :
    (Block.accept start b).Inv := by
  cases hb : b.status.busy
  · rw [Block.accept_idle hb]
    obtain ⟨st, hst, e⟩ | ⟨-, e⟩ | ⟨op, seq, hop, hne, hi, hfits, e⟩ :=
      Block.start_cases hs { b with status := b.status.clearErrors }
    · rw [e]
      have hidle : st.busy = false := (Status.eq_of_clearErrors_eq hst).1.trans hb
      exact h.withErrors hst fun hbusy => absurd (hidle.symm.trans hbusy) (by decide)
    · rw [e]
      exact h.startProgram hb (.inl ⟨rfl, rfl⟩) (by decide) rfl
    · rw [e]
      have := h.startProgram hb (init := true) (.inr ⟨hne, rfl, hi⟩) hop hfits
      rwa [← show b.status.clearErrors.init = true from hi] at this
  · rw [Block.accept_busy hb]
    exact h.withErrors rfl fun _ => h.noErrorYet hb

/-- The first action of INIT enables the pad (R143). -/
theorem Block.seqFits_first {b : Block} (h : b.seqFits) (hc : b.curOp = .init) (hpc : b.seqPc = 0) :
    b.nextAction = some .oe := by
  have hs : b.seq = initProgram := by simpa [Block.seqFits, hc] using h
  simp [Block.nextAction, hs, hpc, initProgram]

/-- Once an action is performed the pad is driven (R111, R115, R216). -/
theorem Block.Inv.drivenAfter {b : Block} (h : b.Inv) {a : Action} (ha : b.nextAction = some a) :
    (decide (a = .oe) || b.status.csOe) = true := by
  obtain ⟨-, -, hop, -⟩ := h.next ha
  by_cases hoe : a = .oe
  · simp [hoe]
  · have hpc : b.curOp = .init → 0 < b.seqPc := fun hc => Nat.pos_of_ne_zero fun h0 =>
      hoe (Option.some.inj (ha.symm.trans (Block.seqFits_first h.seqFits hc h0)))
    simp [h.oeDriven hop hpc]

/-- An action performed without a fault, and the advance (R120). -/
theorem Block.Inv.advance {b b' : Block} (h : b.Inv) {a : Action} (ha : b.nextAction = some a) (e : ActionEffect a b b') :
    b'.advance.Inv := by
  obtain ⟨hbusy, hlt, hop, -⟩ := h.next ha
  have hdriven := h.drivenAfter ha
  rw [Block.advance_eq, e.seq, e.seqPc, e.curOp, e.rdata, e.status]
  exact
    { seqFits := by simpa only [Block.seqFits, e.seq, e.curOp] using h.seqFits
      pcInSeq := hlt
      busyIff := by
        simp only [hbusy, Bool.and_true, decide_eq_true_eq]
        omega
      csFollows := by
        dsimp only
        rw [Block.take_next ha, csAfter_append, ← h.csFollows]
      oeDriven := fun _ _ => hdriven
      initDriven := fun _ => hdriven
      initCleared := by
        simp only [Bool.and_eq_true, decide_eq_true_eq]
        rintro ⟨hl, -⟩ hc
        simp [hl, h.initCleared hbusy (e.curOp ▸ hc)]
      initHeld := fun _ hc => by simp [h.initHeld hbusy (e.curOp ▸ hc)]
      noErrorYet := fun _ => h.noErrorYet hbusy
      rdataByte := by
        dsimp only
        split
        · exact Byte.zext32_lt _
        · exact h.rdataByte
      sckIdle := e.sck h.sckIdle
      bitsInByte := e.bits h.bitsInByte
      settleOnly := fun hpos => by
        have hcnt : b'.settleCnt = 0 := by
          rw [e.settleCnt]
          split
          · rfl
          · next hne => exact h.settleCnt_eq_zero (by simpa [ha] using hne)
        exact absurd hcnt hpos.ne' }

/-- A controller's move (R120, R122). -/
theorem Block.Inv.of_controllerStep {s t : State} (h : s.blk.Inv) (hs : controllerStep s = .next t) : t.blk.Inv := by
  obtain ⟨-, e⟩ | ⟨a, b, ha, heff, e⟩ | ⟨tx, cap, ser, trace, ha, hoe, hbits, hsck, e⟩ := controllerStep_blk_cases hs
  · exact e ▸ h
  · exact e ▸ h.advance ha heff
  · rw [e]
    have hcnt : s.blk.settleCnt = 0 := h.settleCnt_eq_zero (by simp [ha])
    exact
      { seqFits := h.seqFits
        pcInSeq := le_rfl
        busyIff := by simp
        csFollows := by simpa using (Block.seqFits_csAfter h.seqFits).symm
        oeDriven := fun _ _ => hoe
        initDriven := fun _ => hoe
        initCleared := fun hb => absurd hb (by simp)
        initHeld := fun hb => absurd hb (by simp)
        noErrorYet := fun hb => absurd hb (by simp)
        rdataByte := h.rdataByte
        sckIdle := hsck h.sckIdle
        bitsInByte := hbits.le
        settleOnly := fun hpos => absurd hcnt hpos.ne' }

/-- SETTLE_CNT takes any value while `A_SETTLE` is next (R41). -/
theorem Block.Inv.withSettleCnt {b : Block} (h : b.Inv) (ha : b.nextAction = some .settle) (n : Nat) :
    Block.Inv { b with settleCnt := n } :=
  { h with settleOnly := fun _ => ha }

end Sys2Proof.Machine
end

section
/-! The device's part of the invariant (R51, R66), and that a device once awake does not sleep again (R67). -/

namespace Sys2Proof.Machine

theorem Device.enterUnknown_inv (d : Device) : d.enterUnknown.Inv := ⟨rfl, by simp [Device.enterUnknown]⟩

/-- A rising edge of CS leaves no device asleep (R67). -/
theorem Device.csRise_awake (d : Device) : d.csRise.resp ≠ .asleep := by
  unfold Device.csRise
  split <;> simp_all [Device.enterUnknown]

theorem Device.exchangeAll_inv (k : Nat) (bytes : List Byte) : ∀ (j : Nat) {d : Device}, d.Inv →
    (Device.exchangeAll k j bytes d).1.Inv := by
  induction bytes with
  | nil => intro _ _ h; exact h
  | cons tx rest ih => intro j d h; exact ih (j + 1) (Device.clockIn_inv 8 tx h)

/-- A frame from outside ends with a rising edge of CS. -/
theorem State.frame_awake (s : State) (bytes : List Byte) : (s.frame bytes).dev.resp ≠ .asleep := Device.csRise_awake _

theorem State.frame_devInv {s : State} (bytes : List Byte) (h : s.dev.Inv) : (s.frame bytes).dev.Inv := by
  have hstart : (if s.blk.csLine then s.dev else s.dev.enterUnknown).Inv := by
    split
    · exact h
    · exact s.dev.enterUnknown_inv
  exact Device.seeCs_inv (Device.exchangeAll_inv s.env.frameNo bytes 0 (Device.seeCs_inv hstart true false)) false true

theorem State.cutExchange_inv {s : State} (bits : Nat) (h : s.dev.Inv) : (s.cutExchange bits).Inv := by
  unfold State.cutExchange
  split
  · split
    · exact h
    · exact Device.clockIn_inv _ _ h
  all_goals exact h

/-- All a controller's move does to the device: an edge of CS, a byte clocked in, or the loss of all knowledge of it at a fault. -/
theorem controllerStep_dev_cases {s t : State} (h : controllerStep s = .next t) :
    t.dev = s.dev ∨ (∃ x y, t.dev = s.dev.seeCs x y) ∨ (∃ tx, t.dev = Device.clockIn 8 tx s.dev) ∨
      (t.dev.resp = .unknown ∧ t.dev.Inv) := by
  obtain ⟨-, rfl⟩ | ⟨-, rfl⟩ | ⟨l, -, rfl⟩ | ⟨tx, cap, -, -, -, -, rfl⟩ | ⟨tx, cap, -, hcs, hoe, -, rfl⟩ | ⟨-, -, rfl⟩ :=
    controllerStep_cases h
  · exact .inl rfl
  · exact .inr (.inl ⟨_, _, rfl⟩)
  · exact .inr (.inl ⟨_, _, rfl⟩)
  · exact .inr (.inr (.inl ⟨tx, by rw [State.exchange_eq]⟩))
  · obtain ⟨ser, d, e, hresp, hmem, hbit, -⟩ := s.exchangeFault_eq tx hcs hoe
    rw [e]
    exact .inr (.inr (.inr ⟨hresp, by rw [hmem]; rfl, by rw [hbit]; decide⟩))
  · exact .inl rfl

theorem controllerStep_devInv {s t : State} (h : controllerStep s = .next t) (hd : s.dev.Inv) : t.dev.Inv := by
  obtain e | ⟨x, y, e⟩ | ⟨tx, e⟩ | ⟨-, hinv⟩ := controllerStep_dev_cases h
  · exact e ▸ hd
  · exact e ▸ Device.seeCs_inv hd x y
  · exact e ▸ Device.clockIn_inv 8 tx hd
  · exact hinv

theorem controllerStep_stays_awake {s t : State} (h : controllerStep s = .next t) (hd : s.dev.resp ≠ .asleep) :
    t.dev.resp ≠ .asleep := by
  obtain e | ⟨x, y, e⟩ | ⟨tx, e⟩ | ⟨hresp, -⟩ := controllerStep_dev_cases h
  · exact e ▸ hd
  · exact e ▸ Device.seeCs_awake hd x y
  · exact e ▸ Device.clockIn_awake 8 tx hd
  · simp [hresp]

/-- The rising edge of INIT's pulse wakes the device (R67, R143). -/
theorem controllerStep_pulse_wakes {s t : State} (h : controllerStep s = .next t) (ha : s.blk.nextAction = some (.cs true))
    (hcs : s.blk.status.csLevel = false) (hoe : s.blk.status.csOe = true) : t.dev.resp ≠ .asleep := by
  rw [controllerStep_cs ha] at h
  cases h
  have hline : s.blk.csLine = false := by simp [Block.csLine, hoe, hcs]
  simpa [hline, hoe, Device.seeCs] using s.dev.csRise_awake

end Sys2Proof.Machine
end

section
/-! The invariant of the machine, kept by each kind of move (R15). -/

namespace Sys2Proof.Machine

/-- The block has seen the device through INIT's pulse: the premise of `State.Inv.awake` (R67, R216). -/
def Block.pulsed (b : Block) : Prop :=
  b.status.init = true ∨ b.curOp = .write ∨ b.curOp = .read ∨ (b.curOp = .init ∧ 4 ≤ b.seqPc)

theorem Block.reset_not_pulsed : ¬ Block.reset.pulsed := by simp [Block.pulsed, Block.reset, Status.reset]

/-- A CMD write starts WRITE and READ on an initialized block only, so it pulses no device (R140, R144, R145). -/
theorem Block.accept_pulsed {start : Block → Block} (hs : start ∈ commandStarts) {b : Block}
    (h : (Block.accept start b).pulsed) : b.pulsed := by
  cases hb : b.status.busy
  · rw [Block.accept_idle hb] at h
    obtain ⟨st, hst, e⟩ | ⟨-, e⟩ | ⟨op, seq, -, -, hi, -, -⟩ :=
      Block.start_cases hs { b with status := b.status.clearErrors }
    · obtain ⟨-, hinit, -⟩ := Status.eq_of_clearErrors_eq hst
      rw [e] at h
      exact h.imp_left hinit.symm.trans
    · rw [e] at h
      simp [Block.pulsed] at h
    · exact .inl hi
  · rwa [Block.accept_busy hb] at h

/-- The pulse ends with the fourth action of INIT, a rising edge of CS (R143). -/
theorem Block.Inv.pulsed_of_advance {b b' : Block} (h : b.Inv) {a : Action} (ha : b.nextAction = some a)
    (e : ActionEffect a b b') (hp : b'.advance.pulsed) :
    b.pulsed ∨ (a = .cs true ∧ b.status.csLevel = false ∧ b.status.csOe = true) := by
  have hseq : b.curOp = .init → b.seq = initProgram := fun hc => by simpa [Block.seqFits, hc] using h.seqFits
  have hp' : ((b.seqPc + 1 = b.seq.length ∧ b.curOp = .init) ∨ b.status.init = true) ∨ b.curOp = .write ∨ b.curOp = .read ∨
      (b.curOp = .init ∧ 4 ≤ b.seqPc + 1) := by
    simpa [Block.pulsed, Block.advance_eq, e.seq, e.seqPc, e.curOp, e.status] using hp
  obtain (⟨hl, hc⟩ | hi) | hc | hc | ⟨hc, hpc⟩ := hp'
  · have hlen : b.seq.length = 9 := by rw [hseq hc]; rfl
    exact .inl (.inr (.inr (.inr ⟨hc, by omega⟩)))
  · exact .inl (.inl hi)
  · exact .inl (.inr (.inl hc))
  · exact .inl (.inr (.inr (.inl hc)))
  · obtain hlt | heq : 4 ≤ b.seqPc ∨ b.seqPc = 3 := by omega
    · exact .inl (.inr (.inr (.inr ⟨hc, hlt⟩)))
    · have hcs : a = .cs true := by simpa [Block.nextAction, hseq hc, heq, initProgram] using ha.symm
      obtain ⟨-, -, -, -, -, -, -, hpulse⟩ := h.next ha
      exact .inr ⟨hcs, hpulse hcs hc heq⟩

/-- No exchange comes before the pulse (R115, R143). -/
theorem Block.Inv.pulsed_of_xfer {b : Block} (h : b.Inv) {tx : Byte} {cap : Bool} (ha : b.nextAction = some (.xfer tx cap)) :
    b.pulsed := by
  obtain ⟨-, -, hop, -, hxfer, -⟩ := h.next ha
  obtain ⟨-, -, -, hpc⟩ := hxfer tx cap rfl
  cases hc : b.curOp with
  | none => exact absurd hc hop
  | init => exact .inr (.inr (.inr ⟨hc, hpc hc⟩))
  | write => exact .inr (.inl hc)
  | read => exact .inr (.inr (.inl hc))

/-- A controller's move keeps the invariant. -/
theorem State.Inv.of_controllerStep {s t : State} (h : s.Inv) (hs : controllerStep s = .next t) : t.Inv := by
  refine ⟨h.blk.of_controllerStep hs, controllerStep_devInv hs h.dev, fun (hp : t.blk.pulsed) => ?_⟩
  have hpulsed : s.blk.pulsed → t.dev.resp ≠ .asleep := fun hp => controllerStep_stays_awake hs (h.awake hp)
  obtain ⟨-, e⟩ | ⟨a, b, ha, heff, e⟩ | ⟨_, _, _, _, ha, -⟩ := controllerStep_blk_cases hs
  · exact hpulsed (e ▸ hp)
  · obtain hp | ⟨rfl, hcs, hoe⟩ := h.blk.pulsed_of_advance ha heff (e ▸ hp)
    · exact hpulsed hp
    · exact controllerStep_pulse_wakes hs ha hcs hoe
  · exact hpulsed (h.blk.pulsed_of_xfer ha)

/-- A clock's move keeps the invariant: it counts, or ends the settle as the controller does (log 13). -/
theorem State.Inv.of_clockStep {s t : State} (h : s.Inv) (hs : clockStep s = .next t) : t.Inv := by
  have hcount : ∀ n, s.blk.nextAction = some .settle → State.Inv { s with blk := { s.blk with settleCnt := n } } :=
    fun n ha => ⟨h.blk.withSettleCnt ha n, h.dev, h.awake⟩
  obtain ⟨-, rfl⟩ | ⟨ha, -, rfl⟩ | ⟨ha, -, hc⟩ := clockStep_cases hs
  · exact h
  · exact hcount _ ha
  · exact (hcount 0 ha).of_controllerStep hc

theorem State.Inv.applyReset {s : State} (h : s.Inv) (bits : Nat) : (s.applyReset bits).Inv :=
  ⟨Block.reset_inv, Device.seeCs_inv (State.cutExchange_inv bits h.dev) _ _, fun hp => absurd hp Block.reset_not_pulsed⟩

/-- Every move keeps the invariant. -/
theorem State.Inv.of_runTurn {m : Turn} {s t : State} (h : s.Inv) (hs : runTurn m s = .next t) : t.Inv := by
  obtain ⟨a, v, env, rfl⟩ | ⟨bytes, rfl⟩ | ⟨w, -, hx⟩ | ⟨-, hc⟩ | ⟨-, hc⟩ | ⟨bits, -, rfl⟩ := runTurn_cases hs
  · exact ⟨h.blk.withOperands a v, h.dev, h.awake⟩
  · exact ⟨h.blk, State.frame_devInv bytes h.dev, fun _ => s.frame_awake bytes⟩
  · obtain ⟨start, hstart, e, -⟩ := exec_decodeHost w s
    cases e.symm.trans hx
    exact ⟨h.blk.accept hstart, h.dev, fun hp => h.awake (Block.accept_pulsed hstart hp)⟩
  · exact h.of_controllerStep hc
  · exact h.of_clockStep hc
  · exact h.applyReset bits

/-- Settles O52. -/
theorem resetMeetsInvariant : Obligations.ResetMeetsInvariant :=
  ⟨Block.reset_inv, ⟨rfl, by decide⟩, fun hp => absurd hp Block.reset_not_pulsed⟩

/-- Settles O53: a step is one move, and taking it off the queue leaves the block and the device alone. -/
theorem stepKeepsInvariant : Obligations.StepKeepsInvariant := by
  intro s t h hs
  have hpop : s.popTurn.Inv := ⟨h.blk, h.dev, h.awake⟩
  exact hpop.of_runTurn hs

end Sys2Proof.Machine
end

section
/-! Who changes a flag or a register: what a step does to the block, and what a CMD write and an action leave of it. -/

namespace Sys2Proof.Machine

/-- All a clock's move can do to the block: count, or end the settle with its effect and the advance (R41, R117). -/
theorem clockStep_blk_cases {s t : State} (h : clockStep s = .next t) :
    (∃ n, t.blk = { s.blk with settleCnt := n }) ∨
    (∃ b, s.blk.nextAction = some .settle ∧ ActionEffect .settle s.blk b ∧ t.blk = b.advance) := by
  obtain ⟨-, rfl⟩ | ⟨-, -, rfl⟩ | ⟨ha, -, hc⟩ := clockStep_cases h
  · exact .inl ⟨t.blk.settleCnt, rfl⟩
  · exact .inl ⟨s.clockCount, rfl⟩
  · have ha0 : Block.nextAction { s.blk with settleCnt := 0 } = some .settle := ha
    obtain ⟨hn, -⟩ | ⟨a, b, hn, e, ht⟩ | ⟨tx, cap, ser, trace, hn, -⟩ := controllerStep_blk_cases hc
    · cases ha0.symm.trans hn
    · cases ha0.symm.trans hn
      exact .inr ⟨b, ha, { e with settleCnt := e.settleCnt }, ht⟩
    · cases ha0.symm.trans hn

/-- All a step can do to the block: leave everything but the operands and SETTLE_CNT alone; run the command of a CMD word; perform
an action and advance; abort on a fault; reset. -/
theorem step_blk_cases {s t : State} (h : step s = .next t) :
    (∃ a v n, t.blk = { s.blk with addr := a, wdata := v, settleCnt := n }) ∨
    (∃ w, ∃ start ∈ commandStarts, s.nextTurn = .host (.write s.params.base 4 w) ∧
      (start = Block.startInit → w.extractLsb' 0 2 = 0b01#2) ∧ t.blk = Block.accept start s.blk) ∨
    (∃ a b, (s.nextTurn = .controller ∨ a = .settle) ∧ s.blk.nextAction = some a ∧ ActionEffect a s.blk b ∧
      t.blk = b.advance) ∨
    (s.nextTurn = .controller ∧ (∃ tx cap, s.blk.nextAction = some (.xfer tx cap)) ∧ t.blk.rdata = s.blk.rdata ∧
      t.blk.status = { s.blk.status with csLevel := true, errXport := true, busy := false }) ∨
    (∃ bits, s.nextTurn = .reset bits ∧ t.blk = Block.reset) := by
  obtain ⟨a, v, env, rfl⟩ | ⟨bytes, rfl⟩ | ⟨w, hm, hx⟩ | ⟨hm, hc⟩ | ⟨-, hc⟩ | ⟨bits, hm, rfl⟩ :=
    runTurn_cases (m := s.nextTurn) (s := s.popTurn) h
  · exact .inl ⟨a, v, s.blk.settleCnt, rfl⟩
  · exact .inl ⟨s.blk.addr, s.blk.wdata, s.blk.settleCnt, rfl⟩
  · obtain ⟨start, hstart, e, hop⟩ := exec_decodeHost w s.popTurn
    cases e.symm.trans hx
    exact .inr (.inl ⟨w, start, hstart, hm, hop, rfl⟩)
  · obtain ⟨-, e⟩ | ⟨a, b, ha, heff, e⟩ | ⟨tx, cap, ser, trace, ha, -, -, -, e⟩ := controllerStep_blk_cases hc
    · exact .inl ⟨s.blk.addr, s.blk.wdata, s.blk.settleCnt, e⟩
    · exact .inr (.inr (.inl ⟨a, b, .inl hm, ha, heff, e⟩))
    · exact .inr (.inr (.inr (.inl ⟨hm, ⟨tx, cap, ha⟩, by rw [e]; rfl, by rw [e]; rfl⟩)))
  · obtain ⟨n, e⟩ | ⟨b, ha, heff, e⟩ := clockStep_blk_cases hc
    · exact .inl ⟨s.blk.addr, s.blk.wdata, n, e⟩
    · exact .inr (.inr (.inl ⟨.settle, b, .inr rfl, ha, heff, e⟩))
  · exact .inr (.inr (.inr (.inr ⟨bits, hm, rfl⟩)))

/-- A CMD write leaves RDATA and the CS latch alone (R140). -/
theorem Block.accept_keeps {start : Block → Block} (hs : start ∈ commandStarts) (b : Block) :
    (Block.accept start b).rdata = b.rdata ∧ (Block.accept start b).status.csLevel = b.status.csLevel := by
  cases hb : b.status.busy
  · rw [Block.accept_idle hb]
    obtain ⟨st, hst, e⟩ | ⟨-, e⟩ | ⟨op, seq, -, -, -, -, e⟩ := Block.start_cases hs { b with status := b.status.clearErrors }
    · obtain ⟨-, -, hlevel, -⟩ := Status.eq_of_clearErrors_eq hst
      rw [e]
      exact ⟨rfl, hlevel⟩
    · rw [e]
      exact ⟨rfl, rfl⟩
    · rw [e]
      exact ⟨rfl, rfl⟩
  · rw [Block.accept_busy hb]
    exact ⟨rfl, Status.raise_csLevel _ _⟩

/-- A CMD write leaves STATUS.INIT alone, but for an accepted INIT, which clears it (R140, R143). -/
theorem Block.accept_init {start : Block → Block} (hs : start ∈ commandStarts) (b : Block) :
    (Block.accept start b).status.init = b.status.init ∨
      (start = Block.startInit ∧ b.status.busy = false ∧ (Block.accept start b).status.init = false) := by
  cases hb : b.status.busy
  · rw [Block.accept_idle hb]
    obtain ⟨st, hst, e⟩ | ⟨hstart, e⟩ | ⟨op, seq, -, -, -, -, e⟩ :=
      Block.start_cases hs { b with status := b.status.clearErrors }
    · obtain ⟨-, hinit, -⟩ := Status.eq_of_clearErrors_eq hst
      rw [e]
      exact .inl hinit
    · rw [e]
      exact .inr ⟨hstart, rfl, rfl⟩
    · rw [e]
      exact .inl rfl
  · rw [Block.accept_busy hb]
    exact .inl (Status.raise_init _ _)

/-- An action and the advance write the CS latch by `A_CS` only (R112). -/
theorem ActionEffect.advance_csLevel {a : Action} {b b' : Block} (e : ActionEffect a b b') :
    b'.advance.status.csLevel = csAfter [a] b.status.csLevel := by
  rw [Block.advance_eq, e.status]

/-- An action and the advance write RDATA at the end of a READ only (R121). -/
theorem ActionEffect.advance_rdata {a : Action} {b b' : Block} (e : ActionEffect a b b') :
    b'.advance.rdata =
      if b.seqPc + 1 = b.seq.length ∧ b.curOp = .read then b'.advance.capture.setWidth 32 else b.rdata := by
  rw [Block.advance_eq, e.seq, e.seqPc, e.curOp, e.rdata]
  rfl

/-- An action and the advance set STATUS.INIT at the end of an INIT only (R121). -/
theorem ActionEffect.advance_init {a : Action} {b b' : Block} (e : ActionEffect a b b') :
    b'.advance.status.init = (decide (b.seqPc + 1 = b.seq.length ∧ b.curOp = .init) || b.status.init) := by
  rw [Block.advance_eq, e.seq, e.seqPc, e.curOp, e.status]

/-- The last action of a program clears BUSY (R121). -/
theorem ActionEffect.advance_busy {a : Action} {b b' : Block} (e : ActionEffect a b b') (hl : b.seqPc + 1 = b.seq.length) :
    b'.advance.status.busy = false := by
  simp [Block.advance_eq, e.seq, e.seqPc, hl]

/-- An action and the advance write no error flag (R121). -/
theorem ActionEffect.advance_flag {a : Action} {b b' : Block} (e : ActionEffect a b b') (c : Err) :
    b'.advance.status.flag c = b.status.flag c := by
  rw [Block.advance_eq, e.status]
  cases c <;> rfl

/-- An abort raises ERR_XPORT and clears no error flag (R122). -/
theorem Status.flag_abort (st : Status) (c : Err) :
    Status.flag { st with csLevel := true, errXport := true, busy := false } c = (decide (c = .xport) || st.flag c) := by
  cases c <;> simp [Status.flag]

/-- Settles O56: `csAfter` of one action is its level for `A_CS`, and the level before for any other. -/
theorem chipSelectOwnership : Obligations.ChipSelectOwnership := by
  refine ⟨fun s t h hne => ?_, fun s hinv hidle => hinv.blk.csHigh hidle⟩
  obtain ⟨a, v, n, e⟩ | ⟨w, start, hs, -, -, e⟩ | ⟨a, b, hm, ha, heff, e⟩ | ⟨hm, ha, -, e⟩ | ⟨bits, hm, -⟩ := step_blk_cases h
  · exact absurd (by rw [e]) hne
  · obtain ⟨-, hlevel⟩ := Block.accept_keeps hs s.blk
    exact absurd (e ▸ hlevel) hne
  · have hlevel : t.blk.status.csLevel = csAfter [a] s.blk.status.csLevel := e ▸ heff.advance_csLevel
    cases a with
    | cs l =>
      have hctl : s.nextTurn = .controller := hm.resolve_right (by simp)
      exact .inl ⟨hctl, hlevel ▸ ha⟩
    | oe | xfer | settle => exact absurd hlevel hne
  · exact .inr (.inl ⟨hm, ha, by rw [e], by rw [e]⟩)
  · exact .inr (.inr ⟨bits, hm⟩)

/-- Settles O57: of all moves only the last action of a READ, and reset, write RDATA. -/
theorem rdataChangesOnlyByRead : Obligations.RdataChangesOnlyByRead := by
  intro s t h hne
  obtain ⟨a, v, n, e⟩ | ⟨w, start, hs, -, -, e⟩ | ⟨a, b, -, -, heff, e⟩ | ⟨-, -, hrdata, -⟩ | ⟨bits, hm, -⟩ := step_blk_cases h
  · exact absurd (by rw [e]) hne
  · obtain ⟨hrdata, -⟩ := Block.accept_keeps hs s.blk
    exact absurd (e ▸ hrdata) hne
  · rw [e] at hne ⊢
    have hrdata := heff.advance_rdata
    split at hrdata
    · next hlast =>
      obtain ⟨hl, hop⟩ := hlast
      exact .inl ⟨hop, hl, heff.advance_busy hl, hrdata⟩
    · exact absurd hrdata hne
  · exact absurd hrdata hne
  · exact .inr ⟨bits, hm⟩

/-- What a step can do to STATUS.INIT: keep it, set it at the end of an INIT, clear it by an accepted INIT or by reset (R26). -/
theorem step_init_cases {s t : State} (h : step s = .next t) :
    t.blk.status.init = s.blk.status.init ∨
    (t.blk.status.init = true ∧ s.blk.curOp = .init ∧ s.blk.seqPc + 1 = s.blk.seq.length ∧ t.blk.status.busy = false) ∨
    (t.blk.status.init = false ∧
      ((∃ w, s.nextTurn = .host (.write s.params.base 4 w) ∧ w.extractLsb' 0 2 = 0b01#2 ∧ s.blk.status.busy = false) ∨
        ∃ bits, s.nextTurn = .reset bits)) := by
  obtain ⟨a, v, n, e⟩ | ⟨w, start, hs, hm, hop, e⟩ | ⟨a, b, -, -, heff, e⟩ | ⟨-, -, -, e⟩ | ⟨bits, hm, e⟩ := step_blk_cases h
  · exact .inl (by rw [e])
  · rw [e]
    obtain hkeep | ⟨hstart, hidle, hclear⟩ := Block.accept_init hs s.blk
    · exact .inl hkeep
    · exact .inr (.inr ⟨hclear, .inl ⟨w, hm, hop hstart, hidle⟩⟩)
  · rw [e, heff.advance_init]
    by_cases hlast : s.blk.seqPc + 1 = s.blk.seq.length ∧ s.blk.curOp = .init
    · obtain ⟨hl, hop⟩ := hlast
      exact .inr (.inl ⟨by simp [hl, hop], hop, hl, heff.advance_busy hl⟩)
    · exact .inl (by simp [hlast])
  · exact .inl (by rw [e])
  · exact .inr (.inr ⟨by rw [e]; rfl, .inr ⟨bits, hm⟩⟩)

/-- Settles O58. -/
theorem initFlagLifeCycle : Obligations.InitFlagLifeCycle := by
  intro s t h
  refine ⟨fun hs ht => ?_, fun hs ht => ?_⟩ <;>
    obtain hkeep | ⟨hset, hend⟩ | ⟨hclear, hby⟩ := step_init_cases h
  · simp [hs, ht] at hkeep
  · exact hend
  · simp [ht] at hclear
  · simp [hs, ht] at hkeep
  · simp [ht] at hset
  · exact hby

/-- Settles O59: a dropped CMD write, an action and an abort only ever raise flags. -/
theorem errorFlagsSticky : Obligations.ErrorFlagsSticky := by
  intro s t c h hset hclear
  obtain ⟨a, v, n, e⟩ | ⟨w, start, hs, hm, -, e⟩ | ⟨a, b, -, -, heff, e⟩ | ⟨-, -, -, e⟩ | ⟨bits, hm, -⟩ := step_blk_cases h
  · have hkeep : t.blk.status.flag c = s.blk.status.flag c := by rw [e]
    simp [hset, hclear] at hkeep
  · cases hb : s.blk.status.busy
    · exact .inl ⟨w, hm, rfl⟩
    · rw [e, Block.accept_busy hb, Block.raise_status, Status.flag_raise, hset] at hclear
      simp at hclear
  · rw [e, heff.advance_flag, hset] at hclear
    cases hclear
  · rw [e, Status.flag_abort, hset] at hclear
    simp at hclear
  · exact .inr ⟨bits, hm⟩

end Sys2Proof.Machine
end

section
/-! Progress: from the invariant every move but a host access outside the contract has a next state; and the settle, clock by clock. -/

namespace Sys2Proof.Machine

/-- An action's precondition holds whenever it is next (R115, R117). -/
theorem controllerStep_next_of_inv {s : State} (h : s.blk.Inv) : ∃ t, controllerStep s = .next t := by
  cases ha : s.blk.nextAction with
  | none => exact ⟨s, controllerStep_idle ha⟩
  | some a =>
    obtain ⟨-, -, -, -, hxfer, hsettle, -⟩ := h.next ha
    cases a with
    | oe => exact ⟨_, controllerStep_oe ha⟩
    | cs l => exact ⟨_, controllerStep_cs ha⟩
    | xfer tx cap =>
      obtain ⟨hcs, hoe, -⟩ := hxfer tx cap rfl
      cases hf : s.faultsAt 0
      · exact ⟨_, controllerStep_xfer ha hcs hoe hf⟩
      · exact ⟨_, controllerStep_xfer_fault ha hcs hoe hf⟩
    | settle =>
      obtain ⟨hcs, -⟩ := hsettle rfl
      exact ⟨_, controllerStep_settle ha hcs⟩

/-- A clock of `A_SETTLE` loads or counts SETTLE_CNT, and at 0 the action ends (R41, R117). -/
theorem clockStep_settle {s : State} (ha : s.blk.nextAction = some .settle) :
    clockStep s =
      if s.clockCount = 0 then controllerStep { s with blk := { s.blk with settleCnt := 0 } }
      else .next { s with blk := { s.blk with settleCnt := s.clockCount } } := if_pos ha

theorem clockStep_next_of_inv {s : State} (h : s.blk.Inv) : ∃ t, clockStep s = .next t := by
  by_cases ha : s.blk.nextAction = some .settle
  · rw [clockStep_settle ha]
    split
    · exact controllerStep_next_of_inv (s := { s with blk := { s.blk with settleCnt := 0 } }) (h.withSettleCnt ha 0)
    · exact ⟨_, rfl⟩
  · exact ⟨s, if_neg ha⟩

/-- Every instruction answers a next state. -/
theorem exec_next (i : Instr) (s : State) : ∃ t, exec i s = .next t := by
  obtain ⟨start, -, e⟩ | ⟨bytes, -, e⟩ := exec_cases i s <;> exact ⟨_, e⟩

theorem writeOffset_next (off : Nat) (v : Word) (s : State) : ∃ t, writeOffset off v s = .next t := by
  unfold writeOffset
  split
  · exact exec_next _ s
  · exact ⟨_, rfl⟩

/-- A host access has a next state unless it reaches the window and the contract does not admit it (R56). -/
theorem hostStep_next_or_stuck (op : HostOp) (s : State) :
    (∃ t, hostStep op s = .next t) ∨
    (hostStep op s = .fault .hostAccessOutsideContract ∧ ∃ addr width,
      (op = .read addr width ∨ ∃ data, op = .write addr width data) ∧
      s.inWindow addr width = true ∧ s.admits addr width = false) := by
  cases op with
  | read addr width =>
    cases hw : s.inWindow addr width
    · exact .inl ⟨s, by simp [hostStep, hw]⟩
    · cases ha : s.admits addr width
      · exact .inr ⟨(hostStep_stuck hw ha 0#32).1, addr, width, .inl rfl, hw, ha⟩
      · exact .inl ⟨_, by simp [hostStep, hw, ha]; rfl⟩
  | write addr width v =>
    cases hw : s.inWindow addr width
    · exact .inl ⟨s, by simp [hostStep, hw]⟩
    · cases ha : s.admits addr width
      · exact .inr ⟨(hostStep_stuck hw ha v).2, addr, width, .inr ⟨v, rfl⟩, hw, ha⟩
      · simpa [hostStep, hw, ha] using writeOffset_next (addr - s.params.base) v s

/-- Settles O54: of the six kinds of move only the host's can stop. -/
theorem onlyHostAccessStops : Obligations.OnlyHostAccessStops := by
  intro s hinv
  have hpop : s.popTurn.blk.Inv := hinv.blk
  unfold step
  cases hm : s.nextTurn with
  | host op =>
    obtain hnext | ⟨hstuck, addr, width, hop, hw, ha⟩ := hostStep_next_or_stuck op s.popTurn
    · exact .inl hnext
    · exact .inr ⟨hstuck, addr, width, by simpa using hop, hw, ha⟩
  | wait => exact .inl ⟨_, rfl⟩
  | frame bytes =>
    obtain ⟨bytes', e⟩ := frameTurn_frame bytes s.popTurn
    exact .inl ⟨_, e⟩
  | controller => exact .inl (controllerStep_next_of_inv hpop)
  | clock => exact .inl (clockStep_next_of_inv hpop)
  | reset bits => exact .inl ⟨_, rfl⟩

/-- SETTLE_CNT is loaded with the ceiling of `P_SETTLE_US * P_F_CLK / 10^6` (R41, R117). -/
theorem settleLoad_ceil (p : Params) :
    p.settleUs * p.fClk ≤ 1000000 * settleLoad p ∧ 1000000 * settleLoad p < p.settleUs * p.fClk + 1000000 := by
  unfold settleLoad
  omega

theorem clockStep_counts {s : State} (ha : s.blk.nextAction = some .settle) {n : Nat} (hn : s.clockCount = n) (hpos : 0 < n) :
    clockStep s = .next { s with blk := { s.blk with settleCnt := n } } := by
  rw [clockStep_settle ha, hn, if_neg hpos.ne']

/-- The last clock of a settle ends the action as the controller's move does (R117; log 13). -/
theorem clockStep_last {s : State} (ha : s.blk.nextAction = some .settle) (hn : s.blk.settleCnt = 1)
    (hcs : s.blk.status.csLevel = true) : clockStep s = controllerStep s := by
  have hcount : s.clockCount = 0 := by simp [State.clockCount, hn]
  have hend : controllerStep { s with blk := { s.blk with settleCnt := 0 } } =
      .next { s with blk := (Block.emit { s.blk with settleCnt := 0 } .settle).advance } :=
    controllerStep_settle (s := { s with blk := { s.blk with settleCnt := 0 } }) ha hcs
  rw [clockStep_settle ha, if_pos hcount, hend, controllerStep_settle ha hcs]

/-- Settles O31: the load, the count and the end of the settle, clause by clause. -/
theorem settleCounterCountsClocks : Obligations.SettleCounterCountsClocks := by
  refine ⟨settleLoad_ceil, fun s ha h0 hpos => ?_, fun s ha h1 => ?_, fun s ha h1 hcs => ?_⟩
  · exact clockStep_counts ha (if_pos h0) hpos
  · exact clockStep_counts ha (if_neg (by omega)) (by omega)
  · have hlast := clockStep_last ha h1 hcs
    refine ⟨hlast, _, hlast.trans (controllerStep_settle ha hcs), ?_, ?_, ?_⟩
    · rw [Block.advance_eq]
      rfl
    · simp
    · simp [Block.advance_seqPc]

end Sys2Proof.Machine
end

section
/-! The two ends of a frame at the device's pins: the bytes as they arrive at the machine, whatever a decoder makes of them, and the
device after them, by its responsiveness (R67 to R72, R84). -/

namespace Sys2Proof.Machine

theorem encode_of_decodeModeFrame {rest : List Byte} {i : Instr} (h : decodeModeFrame rest = .ok i) :
    encode i = .frame (0x01#8 :: rest) := by
  unfold decodeModeFrame at h
  split at h
  · split at h <;> cases h
    simp [encode, modeByte_join]
  · cases h

theorem encode_of_decodeWriteFrame {rest : List Byte} {i : Instr} (h : decodeWriteFrame rest = .ok i) :
    encode i = .frame (0x02#8 :: rest) := by
  unfold decodeWriteFrame at h
  split at h <;> cases h
  simp [encode, wireAddrBytes_append]

theorem encode_of_decodeReadFrame {rest : List Byte} {i : Instr} (h : decodeReadFrame rest = .ok i) :
    encode i = .frame (0x03#8 :: rest) := by
  unfold decodeReadFrame at h
  split at h <;> cases h
  simp [encode, wireAddrBytes_append]

/-- The frame decoder drops no bit: an accepted frame is the encoding of its instruction (R84 to R88). -/
theorem encode_of_decodeFrame {bytes : List Byte} {i : Instr} (h : decodeFrame bytes = .ok i) : encode i = .frame bytes := by
  unfold decodeFrame at h
  split at h
  · cases h
  · split_ifs at h with h1 h2 h3 h4 h5 h6 h7
    · exact h1 ▸ encode_of_decodeModeFrame h
    · exact h2 ▸ encode_of_decodeWriteFrame h
    · exact h3 ▸ encode_of_decodeReadFrame h
    · cases h; rw [h4]; rfl
    · cases h; rw [h5]; rfl
    · cases h; rw [h6]; rfl
    · cases h; rw [h7]; rfl

/-- An instruction whose encoding is a frame drives that frame at the device's pins (R84). -/
theorem exec_of_encode_frame {bytes : List Byte} {i : Instr} (h : encode i = .frame bytes) (s : State) :
    exec i s = .next (s.frame bytes) := by
  cases i with
  | rsvd | init | write | read => cases h
  | wrmr | wireWrite | wireRead | rdmr | edio | eqio | rstio => cases h; rfl

/-- What is driven at the pins acts byte for byte, whether the frame decoder accepts it or not. -/
theorem frameTurn_eq (bytes : List Byte) (s : State) : frameTurn bytes s = .next (s.frame bytes) := by
  cases hd : decodeFrame bytes with
  | ok i => exact (frameTurn_ok hd s).trans (exec_of_encode_frame (encode_of_decodeFrame hd) s)
  | rejected e => exact frameTurn_rejected hd s

/-- The step of a frame at the head of the queue. -/
theorem step_frame {s : State} {bytes : List Byte} {rest : List Turn} (h : s.env.turns = .frame bytes :: rest) :
    step s = .next (State.frame { s with env := { s.env with turns := rest } } bytes) :=
  (step_of_turns_cons h).trans (frameTurn_eq bytes _)

/-! What a statement reads of the device. -/

theorem Device.cell_of_known {d : Device} (h : d.resp ≠ .unknown) (a : Nat) :
    d.cell a = (Memory.read? d.mem a).getD (Config.powerUpCell a) := by
  cases hr : d.resp
  · simp [Device.cell, hr]
  · simp [Device.cell, hr]
  · exact absurd hr h

theorem Device.modeIsByte_of_known {d : Device} (h : d.resp ≠ .unknown) : d.modeIsByte = (d.mode == .byte) := by
  cases hr : d.resp
  · simp [Device.modeIsByte, hr]
  · simp [Device.modeIsByte, hr]
  · exact absurd hr h

theorem Device.known_of_responsive {d : Device} (h : d.resp = .responsive) : d.resp ≠ .unknown := by simp [h]

theorem Device.modeIsByte_responsive {d : Device} (h : d.resp = .responsive) : d.modeIsByte = true ↔ d.mode = .byte := by
  simp [Device.modeIsByte_of_known (Device.known_of_responsive h)]

theorem Device.mode_other_of_responsive {d : Device} (h : d.resp = .responsive) (hm : d.modeIsByte = false) :
    d.mode = .other := by
  cases hd : d.mode
  · simp [(Device.modeIsByte_responsive h).2 hd] at hm
  · rfl

/-- Two known devices with the same memory read alike in every cell. -/
theorem Device.cell_eq {d d' : Device} (h : d.resp ≠ .unknown) (h' : d'.resp ≠ .unknown) (hmem : d'.mem = d.mem) (a : Nat) :
    d'.cell a = d.cell a := by
  rw [Device.cell_of_known h, Device.cell_of_known h', hmem]

/-- With the same mode register too they read alike in both. -/
theorem Device.reads_eq {d d' : Device} (h : d.resp ≠ .unknown) (h' : d'.resp ≠ .unknown) (hmem : d'.mem = d.mem)
    (hmode : d'.mode = d.mode) : d'.modeIsByte = d.modeIsByte ∧ ∀ a, d'.cell a = d.cell a := by
  rw [Device.modeIsByte_of_known h, Device.modeIsByte_of_known h', hmode]
  exact ⟨rfl, Device.cell_eq h h' hmem⟩

theorem Device.cell_write_same {d d' : Device} (h' : d'.resp ≠ .unknown) {a : Nat} {v : Byte}
    (hmem : d'.mem = Memory.write d.mem a v) : d'.cell a = v := by
  rw [Device.cell_of_known h', hmem, Memory.read_write_same]
  rfl

theorem Device.cell_write_other {d d' : Device} (h : d.resp ≠ .unknown) (h' : d'.resp ≠ .unknown) {a x : Nat} {v : Byte}
    (hmem : d'.mem = Memory.write d.mem a v) (hx : x ≠ a) : d'.cell x = d.cell x := by
  rw [Device.cell_of_known h, Device.cell_of_known h', hmem, Memory.read_write_other d.mem v hx]

/-! The device while its frame is open. -/

/-- A responsive device between the bytes of a frame of which it has received `bytes` (R66, R68). -/
def Device.inFrame (d : Device) (bytes : List Byte) : Device := ⟨d.mem, d.mode, .responsive, bytes, 0, 0x00#8, d.tick⟩

@[simp] theorem Device.inFrame_resp (d : Device) (bytes : List Byte) : (d.inFrame bytes).resp = .responsive := rfl

theorem Device.inFrame_known (d : Device) (bytes : List Byte) : (d.inFrame bytes).resp ≠ .unknown := by simp

theorem Device.csFall_responsive {d : Device} (h : d.resp = .responsive) : d.csFall = d.inFrame [] := by
  simp [Device.csFall, h, Device.inFrame]

theorem Device.csFall_unknown {d : Device} (h : d.resp = .unknown) : d.csFall.resp = .unknown := by
  simp [Device.csFall, h, Device.enterUnknown]

theorem Device.csFall_asleep {d : Device} (h : d.resp = .asleep) :
    d.csFall = { d with bytes := [], bitPos := 0, shift := 0x00#8 } := by
  simp [Device.csFall, h]

theorem Device.clockAll_singleton (d : Device) (tx : Byte) : d.clockAll [tx] = Device.clockIn 8 tx d := rfl

theorem Device.clockAll_append (d : Device) (xs ys : List Byte) : d.clockAll (xs ++ ys) = (d.clockAll xs).clockAll ys :=
  List.foldl_append

theorem Device.clockIn_inFrame (d : Device) (bytes : List Byte) (tx : Byte) :
    Device.clockIn 8 tx (d.inFrame bytes) = (d.inFrame bytes).frameStep (bytes ++ [tx]) :=
  Device.clockIn_mk _ _ _ _ _ _

theorem Device.clockAll_concat_inFrame {d d' : Device} {pre : List Byte} (tx : Byte) (h : d.clockAll pre = d'.inFrame pre) :
    d.clockAll (pre ++ [tx]) = (d'.inFrame pre).frameStep (pre ++ [tx]) := by
  rw [Device.clockAll_append, h, Device.clockAll_singleton, Device.clockIn_inFrame]

/-- A completed byte makes the device unknown, or leaves it between bytes of the longer frame. -/
theorem Device.frameStep_inFrame (d : Device) {pre bytes : List Byte} (h : bytes ≠ []) :
    ((d.inFrame pre).frameStep bytes).resp = .unknown ∨ ∃ d' : Device, (d.inFrame pre).frameStep bytes = d'.inFrame bytes := by
  unfold Device.frameStep
  split
  · exact absurd rfl h
  · split_ifs
    · exact .inr ⟨d, rfl⟩
    · exact .inl rfl
  · split_ifs
    · exact .inr ⟨{ d with mode := .byte }, rfl⟩
    · exact .inl rfl
    · exact .inr ⟨d, rfl⟩
  · split_ifs
    · exact .inl rfl
    · exact .inr ⟨d, rfl⟩
  · split_ifs
    · exact .inl rfl
    · exact .inr ⟨d, rfl⟩
  · split_ifs
    · exact .inr ⟨{ d with mem := Memory.write d.mem (cellOfBytes _ _ _) _ }, rfl⟩
    · exact .inr ⟨d, rfl⟩
    · exact .inl rfl
  · exact .inl rfl

/-- After any bytes of a frame, a device that was responsive is unknown or has received just them. -/
theorem Device.clockAll_inFrame (d : Device) (bytes : List Byte) :
    ((d.inFrame []).clockAll bytes).resp = .unknown ∨ ∃ d' : Device, (d.inFrame []).clockAll bytes = d'.inFrame bytes := by
  induction bytes using List.reverseRecOn with
  | nil => exact .inr ⟨d, rfl⟩
  | append_singleton pre tx ih =>
    obtain hu | ⟨d', e⟩ := ih
    · rw [Device.clockAll_append]
      exact .inl (Device.clockAll_unknown [tx] _ hu)
    · rw [Device.clockAll_concat_inFrame tx e]
      exact d'.frameStep_inFrame (by simp)

/-- A byte more than the frame has (R69; log 11). -/
theorem Device.frameStep_overlong {d : Device} {op : Byte} {rest : List Byte}
    (h : (op = 0x01#8 ∧ 1 < rest.length) ∨ 4 < rest.length) : (d.frameStep (op :: rest)).resp = .unknown := by
  obtain ⟨hop, hlen⟩ | hlen := h
  · subst hop
    match rest, hlen with
    | [_, _], _ | [_, _, _], _ | [_, _, _, _], _ | _ :: _ :: _ :: _ :: _ :: _, _ => rfl
  · match rest, hlen with
    | _ :: _ :: _ :: _ :: _ :: _, _ => rfl

/-- An overlong frame ends with a byte too many. -/
theorem Device.clockAll_overlong (d : Device) {op : Byte} {rest : List Byte}
    (h : (op = 0x01#8 ∧ 1 < rest.length) ∨ 4 < rest.length) : ((d.inFrame []).clockAll (op :: rest)).resp = .unknown := by
  obtain ⟨pre, tx, rfl⟩ : ∃ pre tx, rest = pre ++ [tx] := by
    obtain rfl | hc := rest.eq_nil_or_concat'
    · simp at h
    · exact hc
  obtain hu | ⟨d', e⟩ := d.clockAll_inFrame (op :: pre)
  · rw [← List.cons_append, Device.clockAll_append]
    exact Device.clockAll_unknown [tx] _ hu
  · rw [← List.cons_append, Device.clockAll_concat_inFrame tx e]
    exact Device.frameStep_overlong h

/-- The bytes `op :: rest` are short of the frame that `op` begins, and the mode lets it begin (R68 to R71). -/
def Mode.partialFrame (mode : Mode) (op : Byte) (rest : List Byte) : Prop :=
  (op = 0x01#8 ∧ rest.length < 1) ∨ ((op = 0x02#8 ∨ op = 0x03#8) ∧ rest.length < 4 ∧ mode = .byte)

theorem Device.frameStep_partial {d : Device} {op : Byte} {rest : List Byte} (h : d.mode.partialFrame op rest) :
    d.frameStep (op :: rest) = { d with bytes := op :: rest } := by
  obtain ⟨rfl, hlen⟩ | ⟨hop, hlen, hm⟩ := h
  · match rest, hlen with
    | [], _ => rfl
  · have hne : op ≠ 0x01#8 := by obtain rfl | rfl := hop <;> decide
    match rest, hlen with
    | [], _ => simp [Device.frameStep, hop, hm]
    | [_], _ | [_, _], _ | [_, _, _], _ => simp [Device.frameStep, hne]

/-- A frame that is not complete has changed nothing yet (R71). -/
theorem Device.clockAll_partial (d : Device) {op : Byte} {rest : List Byte} (h : d.mode.partialFrame op rest) :
    (d.inFrame []).clockAll (op :: rest) = d.inFrame (op :: rest) := by
  induction rest using List.reverseRecOn with
  | nil =>
    rw [Device.clockAll_singleton, Device.clockIn_inFrame]
    exact Device.frameStep_partial h
  | append_singleton pre tx ih =>
    have hpre : d.mode.partialFrame op pre := by
      simp only [Mode.partialFrame, List.length_append, List.length_singleton] at h ⊢
      exact h.imp (fun ⟨hop, hlen⟩ => ⟨hop, by omega⟩) fun ⟨hop, hlen, hm⟩ => ⟨hop, by omega, hm⟩
    rw [← List.cons_append, Device.clockAll_concat_inFrame tx (ih hpre)]
    exact Device.frameStep_partial h

/-- The mode-set frame (R68). -/
theorem Device.clockAll_modeFrame (d : Device) :
    (d.inFrame []).clockAll [0x01#8, 0x00#8] = Device.inFrame { d with mode := .byte } [0x01#8, 0x00#8] :=
  Device.clockAll_mode _ _ _

/-- A mode byte other than 0x00 (R68). -/
theorem Device.clockAll_badMode (d : Device) {m : Byte} (h : m ≠ 0x00#8) :
    ((d.inFrame []).clockAll [0x01#8, m]).resp = .unknown := by
  have hop : (d.inFrame []).clockAll [0x01#8] = d.inFrame [0x01#8] := d.clockAll_partial (.inl ⟨rfl, Nat.zero_lt_one⟩)
  rw [show [0x01#8, m] = [0x01#8] ++ [m] from rfl, Device.clockAll_concat_inFrame m hop]
  simp [Device.frameStep, h, Device.enterUnknown]

/-- The write frame in Byte mode (R69). -/
theorem Device.clockAll_writeFrame {d : Device} (hm : d.mode = .byte) (a2 a1 a0 v : Byte) :
    (d.inFrame []).clockAll [0x02#8, a2, a1, a0, v] =
      Device.inFrame { d with mem := Memory.write d.mem (cellOfBytes a2 a1 a0) v } [0x02#8, a2, a1, a0, v] := by
  unfold Device.inFrame
  rw [hm, Device.clockAll_write]

/-- The read frame in Byte mode, up to its response and with it (R70). -/
theorem Device.clockAll_readHeader {d : Device} (hm : d.mode = .byte) (a2 a1 a0 : Byte) :
    (d.inFrame []).clockAll [0x03#8, a2, a1, a0] = d.inFrame [0x03#8, a2, a1, a0] :=
  d.clockAll_partial (.inr ⟨.inr rfl, by simp, hm⟩)

theorem Device.clockAll_readFrame {d : Device} (hm : d.mode = .byte) (a2 a1 a0 fill : Byte) :
    (d.inFrame []).clockAll [0x03#8, a2, a1, a0, fill] = d.inFrame [0x03#8, a2, a1, a0, fill] := by
  rw [show [0x03#8, a2, a1, a0, fill] = [0x03#8, a2, a1, a0] ++ [fill] from rfl,
    Device.clockAll_concat_inFrame fill (d.clockAll_readHeader hm a2 a1 a0)]
  rfl

/-- In the fifth exchange of the read frame the device answers the addressed cell (R70). -/
theorem Device.drives_response {d : Device} (h : d.resp = .responsive) (hm : d.mode = .byte) (a2 a1 a0 draw : Byte) :
    (d.inFrame [0x03#8, a2, a1, a0]).drives draw = d.cell (cellOfBytes a2 a1 a0) := by
  simp [Device.drives, Device.inFrame, hm, Device.cell, h]

/-- What the device answers to the bytes of a frame, byte by byte, where the draws say what it does not define (I1, R70). -/
def Device.answers (draw : Nat → Byte) : List Byte → Device → List Byte
  | [], _ => []
  | tx :: rest, d => d.drives (draw 0) :: Device.answers (fun k => draw (k + 1)) rest (Device.clockIn 8 tx d)

theorem Device.answers_length (bytes : List Byte) : ∀ (draw : Nat → Byte) (d : Device),
    (Device.answers draw bytes d).length = bytes.length := by
  induction bytes with
  | nil => intros; rfl
  | cons tx rest ih => intro draw d; exact congrArg (· + 1) (ih _ _)

/-- The answer to a byte is what the device drives after the bytes before it. -/
theorem Device.answers_append_cons (pre : List Byte) (tx : Byte) (rest : List Byte) : ∀ (draw : Nat → Byte) (d : Device),
    (Device.answers draw (pre ++ tx :: rest) d)[pre.length]? = some ((d.clockAll pre).drives (draw pre.length)) := by
  induction pre with
  | nil => intros; rfl
  | cons b pre ih => intro draw d; exact ih _ _

theorem Device.exchangeAll_snd (k : Nat) (bytes : List Byte) : ∀ (j : Nat) (d : Device),
    (Device.exchangeAll k j bytes d).2 = Device.answers (fun i => Config.frameMiso k (j + i)) bytes d := by
  induction bytes with
  | nil => intros; rfl
  | cons tx rest ih =>
    intro j d
    simp only [Device.exchangeAll, Device.answers, ih, Nat.add_zero, Nat.add_assoc, Nat.add_comm 1]

/-! A frame at the machine. -/

/-- What a frame at the pins answers while CS is high. -/
theorem State.frame_frameRx (s : State) (bytes : List Byte) (h : s.blk.csLine = true) :
    (s.frame bytes).env.frameRx = Device.answers (Config.frameMiso s.env.frameNo) bytes s.dev.csFall := by
  simp [State.frame, h, Device.frame, Device.exchangeAll_snd]

theorem State.frame_of_inFrame {s : State} {bytes : List Byte} {d' : Device} (hcs : s.blk.csLine = true)
    (h : s.dev.resp = .responsive) (e : (s.dev.inFrame []).clockAll bytes = d'.inFrame bytes) :
    (s.frame bytes).dev = d'.inFrame bytes := by
  rw [s.frame_dev bytes hcs, Device.csFall_responsive h, e, Device.csRise_responsive rfl]

theorem State.frame_of_unknown {s : State} {bytes : List Byte} (hcs : s.blk.csLine = true)
    (h : s.dev.resp = .responsive) (hu : ((s.dev.inFrame []).clockAll bytes).resp = .unknown) :
    (s.frame bytes).dev.resp = .unknown := by
  rw [s.frame_dev bytes hcs, Device.csFall_responsive h]
  exact Device.csRise_unknown hu

/-- A first byte that is none of the three opcodes, or an access while `MODE = Other` (R69, R72). -/
theorem State.frame_refused {s : State} {op : Byte} (rest : List Byte) (hcs : s.blk.csLine = true)
    (h : s.dev.resp = .responsive) (hop : op ≠ 0x01#8 ∧ (op ≠ 0x02#8 ∧ op ≠ 0x03#8 ∨ s.dev.mode = .other)) :
    (s.frame (op :: rest)).dev.resp = .unknown :=
  State.frame_of_unknown hcs h (Device.clockAll_refused _ _ _ _ _ hop)

/-- A sleeping device ignores the bytes and wakes at the closing edge (R67). -/
theorem State.frame_asleep {s : State} (bytes : List Byte) (hcs : s.blk.csLine = true) (h : s.dev.resp = .asleep) :
    (s.frame bytes).dev = s.dev.inFrame [] := by
  have hfall := Device.csFall_asleep h
  rw [s.frame_dev bytes hcs, Device.clockAll_asleep bytes _ (by simp [hfall, h]), hfall]
  simp [Device.csRise, h, Device.inFrame]

/-- A frame leaves a device unknown that was, and makes any so while the block holds CS low (R71; log 5). -/
theorem State.frame_unknowable {s : State} (bytes : List Byte) (h : s.dev.resp = .unknown ∨ s.blk.csLine = false) :
    (s.frame bytes).dev.resp = .unknown := by
  have hstart : (if s.blk.csLine then s.dev else s.dev.enterUnknown).resp = .unknown := by
    obtain h | h := h
    · split
      · exact h
      · rfl
    · simp [h, Device.enterUnknown]
  simp only [State.frame, Device.frame, Device.exchangeAll_fst]
  exact Device.csRise_unknown (Device.clockAll_unknown bytes _ (Device.csFall_unknown hstart))

end Sys2Proof.Machine
end

section
/-! The wire level (R67 to R72, R161 to R167): what each frame does at the device, the block left alone. -/

namespace Sys2Proof.Machine

/-- Settles O41: the mode byte is `mode ++ rsv`, and 0x00 only where both are 0. -/
theorem modeFrameSelectsByteMode : Obligations.ModeFrameSelectsByteMode := by
  refine ⟨fun mode rsv s hcs hr => ⟨s.frame [0x01#8, mode ++ rsv], rfl, rfl, fun h0 => ?_, fun h0 => ?_⟩,
    fun m s more hturns hm hcs hr => ⟨_, step_frame hturns, ?_, rfl⟩⟩
  · have hdev : (s.frame [0x01#8, mode ++ rsv]).dev = Device.inFrame { s.dev with mode := .byte } [0x01#8, 0x00#8] := by
      rw [(modeByte_eq_zero mode rsv).2 h0]
      exact State.frame_of_inFrame hcs hr s.dev.clockAll_modeFrame
    rw [hdev]
    exact ⟨rfl, rfl, Device.cell_eq (Device.known_of_responsive hr) (Device.inFrame_known _ _) rfl⟩
  · exact State.frame_of_unknown hcs hr (s.dev.clockAll_badMode fun hm => h0 ((modeByte_eq_zero mode rsv).1 hm))
  · exact State.frame_of_unknown hcs hr (s.dev.clockAll_badMode hm)

/-- Settles O42: the fifth byte writes the cell the address bytes select. -/
theorem writeFrameWritesCell : Obligations.WriteFrameWritesCell := by
  refine fun a d s hcs hr => ⟨_, rfl, rfl, fun hm => ?_, fun hm => ?_⟩
  · have hwrite := Device.clockAll_writeFrame ((Device.modeIsByte_responsive hr).1 hm) (a.extractLsb' 16 8)
      (a.extractLsb' 8 8) (a.extractLsb' 0 8) d
    rw [cellOfBytes_field] at hwrite
    have hdev := State.frame_of_inFrame hcs hr hwrite
    simp only [wireAddrBytes, List.cons_append, List.nil_append, hdev]
    exact ⟨rfl, (Device.modeIsByte_responsive rfl).2 ((Device.modeIsByte_responsive hr).1 hm),
      Device.cell_write_same (d := s.dev) (Device.inFrame_known _ _) rfl,
      fun x hx => Device.cell_write_other (Device.known_of_responsive hr) (Device.inFrame_known _ _) rfl hx⟩
  · exact State.frame_refused _ hcs hr ⟨by decide, .inr (Device.mode_other_of_responsive hr hm)⟩

/-- Settles O43: after the header of four bytes the device drives the addressed cell, whatever is sent with it. -/
theorem readFrameAnswersCell : Obligations.ReadFrameAnswersCell := by
  refine fun a fill s hcs hr => ⟨_, rfl, rfl, ?_, fun hm => ?_, fun hm => ?_⟩
  · rw [State.frame_frameRx _ _ hcs, Device.answers_length]
    rfl
  · have hbyte := (Device.modeIsByte_responsive hr).1 hm
    have hresponse := (s.dev.inFrame []).answers_append_cons (0x03#8 :: wireAddrBytes a) fill [] (Config.frameMiso s.env.frameNo)
    have hdev := State.frame_of_inFrame hcs hr
      (Device.clockAll_readFrame hbyte (a.extractLsb' 16 8) (a.extractLsb' 8 8) (a.extractLsb' 0 8) fill)
    obtain ⟨hmode, hcells⟩ := Device.reads_eq (Device.known_of_responsive hr)
      (s.dev.inFrame_known [0x03#8, a.extractLsb' 16 8, a.extractLsb' 8 8, a.extractLsb' 0 8, fill]) rfl rfl
    refine ⟨?_, ?_⟩
    · rw [State.frame_frameRx _ _ hcs, Device.csFall_responsive hr]
      refine hresponse.trans ?_
      simp only [wireAddrBytes]
      rw [Device.clockAll_readHeader hbyte, Device.drives_response hr hbyte, cellOfBytes_field]
    · simp only [wireAddrBytes, List.cons_append, List.nil_append, hdev]
      exact ⟨rfl, hmode.trans hm, hcells⟩
  · exact State.frame_refused _ hcs hr ⟨by decide, .inr (Device.mode_other_of_responsive hr hm)⟩

/-- Settles O44. -/
theorem unusedOpcodesMakeDeviceUnknown : Obligations.UnusedOpcodesMakeDeviceUnknown := by
  refine ⟨fun i rest s hi hcs hr => ?_, fun op rest s more h1 h2 h3 hcs hr hturns => ?_⟩
  · obtain rfl | rfl | rfl | rfl := hi <;>
      exact ⟨_, rfl, State.frame_refused rest hcs hr ⟨by decide, .inl (by decide)⟩, rfl⟩
  · exact ⟨_, step_frame hturns, State.frame_refused rest hcs hr ⟨h1, .inl ⟨h2, h3⟩⟩, rfl⟩

/-- Settles O45. -/
theorem sleepingDeviceIgnoresFrames : Obligations.SleepingDeviceIgnoresFrames := by
  intro i s hi hcs hr
  obtain ⟨bytes, e⟩ := exec_wire hi s
  have hdev := State.frame_asleep bytes hcs hr
  obtain ⟨hmode, hcells⟩ := Device.reads_eq (d := s.dev) (by simp [hr]) (s.dev.inFrame_known []) rfl rfl
  rw [← hdev] at hmode hcells
  exact ⟨_, e, by rw [hdev]; rfl, hmode, hcells, rfl⟩

/-- Settles O46. -/
theorem abortedFramesChangeNothing : Obligations.AbortedFramesChangeNothing := by
  intro op rest s more hshort hcs hr hturns
  have hpartial : s.dev.mode.partialFrame op rest :=
    hshort.imp_right fun ⟨hop, hlen, hm⟩ => ⟨hop, hlen, (Device.modeIsByte_responsive hr).1 hm⟩
  have hdev : (State.frame { s with env := { s.env with turns := more } } (op :: rest)).dev = s.dev.inFrame (op :: rest) :=
    State.frame_of_inFrame hcs hr (s.dev.clockAll_partial hpartial)
  refine ⟨_, step_frame hturns, ?_⟩
  rw [hdev]
  exact ⟨rfl, Device.reads_eq (Device.known_of_responsive hr) (Device.inFrame_known _ _) rfl rfl⟩

/-- Settles O47. -/
theorem overlongFramesMakeDeviceUnknown : Obligations.OverlongFramesMakeDeviceUnknown := by
  intro op rest s more hlong hcs hr hturns
  exact ⟨_, step_frame hturns,
    State.frame_of_unknown hcs hr (s.dev.clockAll_overlong (hlong.imp_right fun ⟨_, hlen⟩ => hlen)), rfl⟩

/-- Settles O48. -/
theorem framesAtAnUnknowableDevice : Obligations.FramesAtAnUnknowableDevice := by
  intro i s hi h
  obtain ⟨bytes, e⟩ := exec_wire hi s
  exact ⟨_, e, State.frame_unknowable bytes h, rfl⟩

end Sys2Proof.Machine
end

section
/-! What outlasts a move of any kind: a device that is unknown (R71), and a frame cut off by reset (R211). -/

namespace Sys2Proof.Machine

theorem Device.seeCs_unknown {d : Device} (h : d.resp = .unknown) (x y : Bool) : (d.seeCs x y).resp = .unknown := by
  unfold Device.seeCs
  split_ifs
  · exact Device.csFall_unknown h
  · exact Device.csRise_unknown h
  · exact h

theorem controllerStep_unknown {s t : State} (h : controllerStep s = .next t) (hd : s.dev.resp = .unknown) :
    t.dev.resp = .unknown := by
  obtain e | ⟨x, y, e⟩ | ⟨tx, e⟩ | ⟨hresp, -⟩ := controllerStep_dev_cases h
  · exact e ▸ hd
  · exact e ▸ Device.seeCs_unknown hd x y
  · exact e ▸ Device.clockIn_unknown 8 tx s.dev hd
  · exact hresp

theorem clockStep_unknown {s t : State} (h : clockStep s = .next t) (hd : s.dev.resp = .unknown) : t.dev.resp = .unknown := by
  obtain ⟨-, rfl⟩ | ⟨-, -, rfl⟩ | ⟨-, -, hc⟩ := clockStep_cases h
  · exact hd
  · exact hd
  · exact controllerStep_unknown hc hd

/-- What reset lets through of an exchange: nothing, or its first bits, at most seven (R211; log 12). -/
theorem State.cutExchange_cases (s : State) (bits : Nat) :
    s.cutExchange bits = s.dev ∨ ∃ n tx, n ≤ 7 ∧ s.cutExchange bits = Device.clockIn n tx s.dev := by
  unfold State.cutExchange
  split
  · split
    · exact .inl rfl
    · exact .inr ⟨_, _, Nat.min_le_right bits 7, rfl⟩
  all_goals exact .inl rfl

theorem State.applyReset_unknown {s : State} (bits : Nat) (h : s.dev.resp = .unknown) :
    (s.applyReset bits).dev.resp = .unknown := by
  refine Device.seeCs_unknown ?_ _ _
  obtain e | ⟨n, tx, -, e⟩ := s.cutExchange_cases bits
  · exact e ▸ h
  · exact e ▸ Device.clockIn_unknown n tx s.dev h

/-- Settles O49, move by move. -/
theorem unknownDeviceStaysUnknown : Obligations.UnknownDeviceStaysUnknown := by
  intro s t h hd
  obtain ⟨a, v, env, rfl⟩ | ⟨bytes, rfl⟩ | ⟨w, -, hx⟩ | ⟨-, hc⟩ | ⟨-, hc⟩ | ⟨bits, -, rfl⟩ :=
    runTurn_cases (m := s.nextTurn) (s := s.popTurn) h
  · exact hd
  · exact State.frame_unknowable bytes (.inl hd)
  · obtain ⟨start, -, e, -⟩ := exec_decodeHost w s.popTurn
    cases e.symm.trans hx
    exact hd
  · exact controllerStep_unknown hc hd
  · exact clockStep_unknown hc hd
  · exact State.applyReset_unknown bits hd

/-- Bits that complete no byte are only shifted in (R68). -/
theorem Device.clockIn_inside (n : Nat) : ∀ (tx : Byte) {d : Device}, d.resp = .responsive → d.bitPos + n ≤ 7 →
    ∃ sh, Device.clockIn n tx d = { d with shift := sh, bitPos := d.bitPos + n } := by
  induction n with
  | zero => exact fun _ d _ _ => ⟨d.shift, rfl⟩
  | succ n ih =>
    intro tx d h hp
    rw [Device.clockIn, Device.sampleBit_inside tx.msb h (by omega)]
    obtain ⟨sh, e⟩ := ih (tx <<< 1) (d := { d with shift := d.shift.shiftConcat tx.msb, bitPos := d.bitPos + 1 }) h
      (by simp only; omega)
    exact ⟨sh, e.trans (by simp only [Nat.add_assoc, Nat.add_comm 1])⟩

/-- Between bytes, what reset lets through of an exchange leaves memory, mode and responsiveness alone (R71, R211). -/
theorem State.cutExchange_keeps {s : State} (bits : Nat) (h : s.dev.resp = .responsive) (hp : s.dev.bitPos = 0) :
    (s.cutExchange bits).resp = .responsive ∧ (s.cutExchange bits).mem = s.dev.mem ∧
      (s.cutExchange bits).mode = s.dev.mode := by
  obtain e | ⟨n, tx, hn, e⟩ := s.cutExchange_cases bits
  · rw [e]
    exact ⟨h, rfl, rfl⟩
  · obtain ⟨sh, e'⟩ := Device.clockIn_inside n tx h (by omega)
    rw [e, e']
    exact ⟨h, rfl, rfl⟩

/-- Settles O51: the rising line leaves a responsive device as the bits that were let through left it. -/
theorem resetAbortsFrame : Obligations.ResetAbortsFrame := by
  intro s bits rest hturns hcs hr hp
  have hkeep := State.cutExchange_keeps (s := { s with env := { s.env with turns := rest } }) bits hr hp
  obtain ⟨hresp, hmem, hmode⟩ := hkeep
  have hdev : (State.applyReset { s with env := { s.env with turns := rest } } bits).dev =
      State.cutExchange { s with env := { s.env with turns := rest } } bits := by
    simp only [State.applyReset, hcs]
    exact Device.csRise_responsive hresp
  refine ⟨_, step_of_turns_cons hturns, rfl, rfl, ?_⟩
  rw [hdev]
  exact ⟨hresp, Device.reads_eq (Device.known_of_responsive hr) (Device.known_of_responsive hresp) hmem hmode⟩

/-- Settles O13: of an access that reaches the window the contract admits only an aligned word. -/
theorem accessOutsideContractIsStuck : Obligations.AccessOutsideContractIsStuck := by
  intro s addr width v rest hlt hreach hbad
  have hin : s.inWindow addr width = true := by
    simp only [State.inWindow, Config.windowBytes, hlt, hreach, decide_true, Bool.and_self]
  have hout : s.admits addr width = false := by
    rw [Bool.eq_false_iff]
    intro hadm
    obtain ⟨hw, off, -, hal, rfl⟩ := (s.inWindow_and_admits addr width).1 ⟨hin, hadm⟩
    omega
  obtain ⟨hread, hwrite⟩ := hostStep_stuck (s := { s with env := { s.env with turns := rest } }) hin hout v
  exact ⟨fun h => (step_of_turns_cons h).trans hread, fun h => (step_of_turns_cons h).trans hwrite⟩

end Sys2Proof.Machine
end

section
/-! The frames the programs send (R85 to R87, R118), and the serializer period by period (R114). -/

namespace Sys2Proof.Machine

/-- A write frame as its bytes are laid out (R86). -/
theorem decodeTraceFrame_wireWrite (a : BitVec 24) (v : Byte) :
    decodeTraceFrame (0x02#8 :: (wireAddrBytes a ++ [v])) = .ok (.wireWrite a v) := by
  have h : decodeFrame (0x02#8 :: (wireAddrBytes a ++ [v])) = .ok (.wireWrite a v) := by
    simp [decodeFrame, decodeWriteFrame, wireAddrBytes, wireAddr_join]
  simp [decodeTraceFrame, h]

/-- A read frame as its bytes are laid out (R87). -/
theorem decodeTraceFrame_wireRead (a : BitVec 24) (fill : Byte) :
    decodeTraceFrame (0x03#8 :: (wireAddrBytes a ++ [fill])) = .ok (.wireRead a fill) := by
  have h : decodeFrame (0x03#8 :: (wireAddrBytes a ++ [fill])) = .ok (.wireRead a fill) := by
    simp [decodeFrame, decodeReadFrame, wireAddrBytes, wireAddr_join]
  simp [decodeTraceFrame, h]

/-- `zext_24` of an address operand leaves the top 7 bits 0 (R53). -/
theorem zext24_le_addrMax (a : BitVec 17) : (a.setWidth 24).toNat ≤ Config.addrMax := by
  have := a.isLt
  simp only [BitVec.toNat_setWidth, Config.addrMax]
  omega

theorem programBytes_writeProgram (a : BitVec 17) (v : Byte) :
    programBytes (writeProgram a v) = 0x02#8 :: (wireAddrBytes (a.setWidth 24) ++ [v]) := by
  rw [← enc3_eq_wireAddrBytes]
  rfl

theorem programBytes_readProgram (a : BitVec 17) :
    programBytes (readProgram a) = 0x03#8 :: (wireAddrBytes (a.setWidth 24) ++ [0x00#8]) := by
  rw [← enc3_eq_wireAddrBytes]
  rfl

/-- Settles O4. -/
theorem programsSendTheirFrames : Obligations.ProgramsSendTheirFrames := by
  refine ⟨by decide, by decide, fun a v => ⟨?_, ?_⟩, fun a => ⟨?_, ?_⟩⟩
  · rw [programBytes_writeProgram, decodeTraceFrame_wireWrite]
  · exact decide_eq_true (zext24_le_addrMax a)
  · rw [programBytes_readProgram, decodeTraceFrame_wireRead]
  · rw [Instr.emittedByBlock, decide_eq_true (zext24_le_addrMax a)]
    rfl

/-- One period of SCK, the device driving `miso` (R114). -/
def clockPeriod (miso : Bool) (p : Serializer × Device) : Serializer × Device :=
  ((p.1.drive.rise miso).fall, p.2.sampleBit p.1.drive.mosi)

/-- A period more carries the next bit of the byte on MISO. -/
theorem clockBits_succ (n : Nat) : ∀ (miso : Byte) (p : Serializer × Device),
    clockBits (n + 1) miso p = clockPeriod (miso <<< n).msb (clockBits n miso p) := by
  induction n with
  | zero => intro miso p; simp [clockBits, clockPeriod]
  | succ n ih =>
    intro miso p
    calc clockBits (n + 1 + 1) miso p
      _ = clockBits (n + 1) (miso <<< 1) (clockPeriod miso.msb p) := rfl
      _ = clockPeriod (miso <<< 1 <<< n).msb (clockBits n (miso <<< 1) (clockPeriod miso.msb p)) := ih _ _
      _ = clockPeriod (miso <<< (n + 1)).msb (clockBits (n + 1) miso p) := by
        rw [← BitVec.shiftLeft_add, Nat.add_comm 1 n]
        rfl

/-- `TX_SH` moves one place a period (R114). -/
theorem clockBits_txSh (n : Nat) (miso : Byte) (ser : Serializer) (d : Device) :
    (clockBits n miso (ser, d)).1.txSh = ser.txSh <<< n := by
  induction n with
  | zero => simp [clockBits]
  | succ n ih =>
    rw [clockBits_succ, BitVec.shiftLeft_add, ← ih]
    rfl

/-- The bit that stands at the top after `n` places. -/
theorem shiftLeft_msb (b : Byte) {n : Nat} (h : n < 8) : (b <<< n).msb = b.getLsbD (7 - n) := by
  simp only [BitVec.msb_eq_getLsbD_last, BitVec.getLsbD_shiftLeft, show ¬ 7 < n by omega, Nat.reduceSub, Nat.reduceLT,
    decide_true, decide_false, Bool.not_false, Bool.true_and]

/-- The bits of MISO gather in `RX_SH`, most-significant first (R114). -/
theorem clockBits_rxSh {n : Nat} (h : n ≤ 8) (miso tx : Byte) (ser : Serializer) (d : Device) :
    (clockBits n miso (ser.load tx, d)).1.rxSh = miso >>> (8 - n) := by
  induction n with
  | zero => exact (BitVec.ushiftRight_eq_zero (x := miso) (Nat.le_refl 8)).symm
  | succ n ih =>
    rw [clockBits_succ]
    show (clockBits n miso (ser.load tx, d)).1.rxSh.shiftConcat (miso <<< n).msb = _
    rw [ih (by omega), shiftLeft_msb miso (by omega)]
    apply BitVec.eq_of_getLsbD_eq
    intro i hi
    cases i with
    | zero => simp
    | succ i => simp [hi, show 8 - n + i = 8 - (n + 1) + (i + 1) by omega]

/-- Settles O28: the last of the `n` periods drove bit `8 - n`, and ended with SCK at 0. -/
theorem serializerBitByBit : Obligations.SerializerBitByBit := by
  intro n tx miso ser d hpos hn
  obtain ⟨m, rfl⟩ : ∃ m, n = m + 1 := ⟨n - 1, by omega⟩
  have hmosi : (clockBits (m + 1) miso (ser.load tx, d)).1.mosi = (clockBits m miso (ser.load tx, d)).1.txSh.msb := by
    rw [clockBits_succ]
    rfl
  refine ⟨?_, ?_, ?_, clockBits_txSh _ _ _ _, clockBits_rxSh hn _ _ _ _, clockBits_dev _ _ _ _⟩
  · rw [clockBits_bits]
    exact Nat.zero_add _
  · rw [clockBits_succ]
    rfl
  · rw [hmosi, clockBits_txSh, Serializer.load_txSh, shiftLeft_msb tx (by omega)]
    congr 1
    omega

end Sys2Proof.Machine
end

section
/-! Every running command ends (R64, R189): from the invariant each step of the controller brings the program nearer its end. -/

namespace Sys2Proof.Machine

theorem Block.seqFits_length_le {b : Block} (h : b.seqFits) : b.seq.length ≤ 9 := by
  obtain ⟨-, hs⟩ | ⟨-, hs⟩ | ⟨-, x, y, z, v, hs⟩ | ⟨-, x, y, z, hs⟩ := Block.seqFits_cases h <;>
    simp [hs, initProgram]

theorem Block.advance_seq (b : Block) : b.advance.seq = b.seq := by rw [Block.advance_eq]

/-- The actions a program has left. -/
def Block.actionsLeft (b : Block) : Nat := b.seq.length - b.seqPc

/-- An action leaves one fewer, an abort none (R120, R122). -/
theorem controllerStep_actionsLeft {s t : State} (h : s.blk.Inv) (hbusy : s.blk.status.busy = true)
    (hs : controllerStep s = .next t) : t.blk.actionsLeft < s.blk.actionsLeft := by
  have hlt := h.busyIff.1 hbusy
  unfold Block.actionsLeft
  obtain ⟨ha, -⟩ | ⟨a, b, -, e, ht⟩ | ⟨_, _, _, _, -, -, -, -, ht⟩ := controllerStep_blk_cases hs
  · exact absurd (List.getElem?_eq_none_iff.1 ha) (by omega)
  · rw [ht, Block.advance_seq, Block.advance_seqPc, e.seq, e.seqPc]
    omega
  · rw [ht]
    simp only
    omega

/-- Within as many steps as actions are left, the controller is idle. -/
theorem runController_ends (k : Nat) : ∀ {s : State}, s.Inv → s.blk.actionsLeft ≤ k →
    ∃ n t, n ≤ k ∧ runController n s = .next t ∧ t.Inv ∧ t.blk.status.busy = false := by
  induction k with
  | zero =>
    intro s h hk
    refine ⟨0, s, le_rfl, rfl, h, Bool.eq_false_iff.2 fun hbusy => ?_⟩
    have := h.blk.busyIff.1 hbusy
    unfold Block.actionsLeft at hk
    omega
  | succ k ih =>
    intro s h hk
    cases hbusy : s.blk.status.busy
    · exact ⟨0, s, Nat.zero_le _, rfl, h, hbusy⟩
    · obtain ⟨u, hu⟩ := controllerStep_next_of_inv h.blk
      have hless := controllerStep_actionsLeft h.blk hbusy hu
      obtain ⟨n, t, hn, hrun, hinv, hidle⟩ := ih (h.of_controllerStep hu) (by omega)
      exact ⟨n + 1, t, by omega, (runController_next n hu).trans hrun, hinv, hidle⟩

/-- Settles O37: no program has more than nine actions. -/
theorem everyCommandEnds : Obligations.EveryCommandEnds := by
  intro s h hbusy
  have hlt := h.blk.busyIff.1 hbusy
  have hlen := Block.seqFits_length_le h.blk.seqFits
  refine ⟨by simp [State.runEnded, hlt.ne], ?_⟩
  obtain ⟨n, t, hn, hrun, hinv, hidle⟩ := runController_ends 9 h (by unfold Block.actionsLeft; omega)
  obtain ⟨hend, -, -⟩ := hinv.blk.idle hidle
  exact ⟨n, t, hn, hrun, hidle, hinv.blk.csHigh hidle, hend⟩

end Sys2Proof.Machine
end

section
/-! A run of the controller, exchange by exchange: what a frame leaves when no exchange faults (R113, R120, R121). -/

namespace Sys2Proof.Machine

/-- The actions of exchanges, each with the byte it sends and whether it captures the answer. -/
def exchangeActions (xs : List (Byte × Bool)) : List Action := xs.map fun x => .xfer x.1 x.2

/-- CAPTURE after exchanges that were answered `rs` (R113). -/
def captureAfter : Byte → List (Byte × Bool) → List Byte → Byte
  | c, x :: xs, r :: rs => captureAfter (if x.2 then r else c) xs rs
  | c, _, _ => c

/-- What the device answers to bytes sent from here on without a fault. -/
def State.answers (s : State) (bytes : List Byte) : List Byte := Device.answers (fun k => (s.drawAt k).miso) bytes s.dev

/-- What exchanges that do not fault leave, but for the serializer (R113, R114). -/
def State.exchanged (s : State) (xs : List (Byte × Bool)) (ser : Serializer) : State :=
  { params := s.params
    blk := { s.blk with
      ser := ser
      capture := captureAfter s.blk.capture xs (s.answers (xs.map Prod.fst))
      xferIdx := s.blk.xferIdx + xs.length
      seqPc := s.blk.seqPc + xs.length
      trace := s.blk.trace ++ List.zipWith .x (xs.map Prod.fst) (s.answers (xs.map Prod.fst)) }
    dev := s.dev.clockAll (xs.map Prod.fst)
    env := { s.env with phy := s.env.phy.drop xs.length } }

/-- The draws ahead move up by as many exchanges as are behind the block. -/
theorem State.drawAt_after {s t : State} {n : Nat} (he : t.env.phy = s.env.phy.drop n) (hr : t.env.runNo = s.env.runNo)
    (hx : t.blk.xferIdx = s.blk.xferIdx + n) (k : Nat) : t.drawAt k = s.drawAt (n + k) := by
  simp only [State.drawAt, he, hr, hx, List.getElem?_drop, Nat.add_assoc]

theorem State.faultsAt_after {s t : State} {n : Nat} (hp : t.params = s.params) (he : t.env.phy = s.env.phy.drop n)
    (hr : t.env.runNo = s.env.runNo) (hx : t.blk.xferIdx = s.blk.xferIdx + n) (k : Nat) :
    t.faultsAt k = s.faultsAt (n + k) := by
  simp only [State.faultsAt, hp, State.drawAt_after he hr hx]

theorem State.exchanged_faultsAt (s : State) (xs : List (Byte × Bool)) (ser : Serializer) (k : Nat) :
    (s.exchanged xs ser).faultsAt k = s.faultsAt (xs.length + k) :=
  State.faultsAt_after (s := s) (t := s.exchanged xs ser) rfl rfl rfl rfl k

/-- The action that is next, and the program after it. -/
theorem Block.next_of_drop {b : Block} {a : Action} {as : List Action} (h : b.seq.drop b.seqPc = a :: as) :
    b.nextAction = some a ∧ b.seq.drop (b.seqPc + 1) = as ∧ b.seqPc + 1 + as.length = b.seq.length := by
  have hlen := congrArg List.length h
  simp only [List.length_drop, List.length_cons] at hlen
  refine ⟨?_, ?_, by omega⟩
  · have hhead := List.getElem?_drop (xs := b.seq) (i := b.seqPc) (j := 0)
    rw [h] at hhead
    exact hhead.symm
  · rw [← List.drop_drop, h]
    rfl

/-- One exchange inside a program (R113, R120). -/
theorem controllerStep_exchanged {s : State} {tx : Byte} {cap : Bool} (h : s.blk.nextAction = some (.xfer tx cap))
    (hcs : s.blk.status.csLevel = false) (hoe : s.blk.status.csOe = true) (hf : s.faultsAt 0 = false)
    (hl : s.blk.seqPc + 1 ≠ s.blk.seq.length) : ∃ ser, controllerStep s = .next (s.exchanged [(tx, cap)] ser) :=
  ⟨_, controllerStep_xfer_inside h hcs hoe hf hl⟩

theorem State.exchanged_answers (s : State) (x : Byte × Bool) (ser : Serializer) (bytes : List Byte) :
    s.answers (x.1 :: bytes) = s.answer :: (s.exchanged [x] ser).answers bytes := by
  have hdraw : ∀ k, (s.exchanged [x] ser).drawAt k = s.drawAt (k + 1) := fun k =>
    State.drawAt_useDraw s _ k rfl rfl rfl
  simp only [State.answers, Device.answers, hdraw]
  rfl

/-- An exchange and those that follow it. -/
theorem State.exchanged_cons (s : State) (x : Byte × Bool) (xs : List (Byte × Bool)) (ser ser' : Serializer) :
    (s.exchanged [x] ser).exchanged xs ser' = s.exchanged (x :: xs) ser' := by
  have hanswers := s.exchanged_answers x ser (xs.map Prod.fst)
  unfold State.exchanged at hanswers ⊢
  simp only [List.map_cons, hanswers]
  simp [State.answers, Device.answers, captureAfter, Nat.add_assoc, Nat.add_comm 1]

/-- The exchanges of a program, performed inside a frame without a fault. -/
theorem runController_exchanges {rest : List Action} (hrest : rest ≠ []) (xs : List (Byte × Bool)) : ∀ {s : State},
    s.blk.seq.drop s.blk.seqPc = exchangeActions xs ++ rest → s.blk.status.csLevel = false → s.blk.status.csOe = true →
    s.noFault xs.length → ∃ ser, runController xs.length s = .next (s.exchanged xs ser) := by
  induction xs with
  | nil =>
    intro s _ _ _ _
    exact ⟨s.blk.ser, by simp [runController, State.exchanged, State.answers, Device.answers, captureAfter]⟩
  | cons x xs ih =>
    intro s hseq hcs hoe hf
    obtain ⟨hnext, hdrop, hlen⟩ := Block.next_of_drop hseq
    have hinside : s.blk.seqPc + 1 ≠ s.blk.seq.length := by
      have := List.length_pos_iff.2 hrest
      simp only [List.append_eq, List.length_append] at hlen
      omega
    obtain ⟨ser, hstep⟩ := controllerStep_exchanged hnext hcs hoe (hf 0 (Nat.zero_lt_succ _)) hinside
    have hf' : (s.exchanged [x] ser).noFault xs.length := fun k hk =>
      (s.exchanged_faultsAt [x] ser k).trans (hf (1 + k) (by simp only [List.length_cons]; omega))
    obtain ⟨ser', hrun⟩ := ih (s := s.exchanged [x] ser) hdrop hcs hoe hf'
    exact ⟨ser', (runController_next _ hstep).trans (hrun.trans (congrArg _ (s.exchanged_cons x xs ser ser')))⟩

/-- A program that is one frame: CS low, the exchanges, CS high (R144, R145). -/
def frameProgram (xs : List (Byte × Bool)) : List Action := .cs false :: (exchangeActions xs ++ [.cs true])

theorem frameProgram_length (xs : List (Byte × Bool)) : (frameProgram xs).length = xs.length + 2 := by
  simp [frameProgram, exchangeActions]

theorem frameProgram_last (xs : List (Byte × Bool)) : (frameProgram xs)[0 + 1 + xs.length]? = some (.cs true) := by
  rw [show 0 + 1 + xs.length = (Action.cs false :: exchangeActions xs).length by simp [exchangeActions, Nat.add_comm]]
  exact List.getElem?_concat_length

/-- What opening a frame leaves (R112): CS low, the device at the start of a frame. -/
def State.opened (s : State) : State :=
  { s with
    blk := { s.blk with
      seqPc := s.blk.seqPc + 1
      status := { s.blk.status with csLevel := false }
      trace := s.blk.trace ++ [.cs false] }
    dev := s.dev.csFall }

theorem controllerStep_opens {s : State} (h : s.blk.nextAction = some (.cs false)) (hcs : s.blk.status.csLevel = true)
    (hoe : s.blk.status.csOe = true) (hl : s.blk.seqPc + 1 ≠ s.blk.seq.length) : controllerStep s = .next s.opened := by
  rw [controllerStep_cs h, Block.advance_inside (b := (s.setCs false).blk) hl]
  simp [State.opened, Block.csLine, hcs, hoe, Device.seeCs]

/-- What the end of a frame leaves that ends its program (R112, R121). -/
def State.closed (s : State) : State :=
  { s with
    blk := { s.blk with
      seqPc := s.blk.seqPc + 1
      rdata := if s.blk.curOp = .read then s.blk.capture.zext32 else s.blk.rdata
      status := { s.blk.status with csLevel := true, busy := false, init := decide (s.blk.curOp = .init) || s.blk.status.init }
      trace := s.blk.trace ++ [.cs true] }
    dev := s.dev.csRise }

theorem controllerStep_closes {s : State} (h : s.blk.nextAction = some (.cs true)) (hcs : s.blk.status.csLevel = false)
    (hoe : s.blk.status.csOe = true) (hl : s.blk.seqPc + 1 = s.blk.seq.length) : controllerStep s = .next s.closed := by
  rw [controllerStep_cs h, Block.advance_last (b := (s.setCs true).blk) hl, Block.complete_eq]
  simp [State.closed, Block.csLine, hcs, hoe, Device.seeCs]

theorem runController_succ {n : Nat} {s t : State} (h : runController (n + 1) s = .next t) :
    ∃ u, controllerStep s = .next u ∧ runController n u = .next t := by
  cases hs : controllerStep s with
  | next u => exact ⟨u, rfl, by rwa [runController_next n hs] at h⟩
  | fault f => simp [runController, hs] at h
  | refused r => simp [runController, hs] at h

theorem runController_trans {m n : Nat} : ∀ {s t : State}, runController m s = .next t →
    runController (m + n) s = runController n t := by
  induction m with
  | zero =>
    intro s t h
    cases h
    rw [Nat.zero_add]
  | succ m ih =>
    intro s t h
    obtain ⟨u, hu, hrun⟩ := runController_succ h
    rw [Nat.add_right_comm, runController_next _ hu, ih hrun]

/-- A program that is one frame, run from its first action without a fault. -/
theorem runController_frame {s : State} {xs : List (Byte × Bool)} (hseq : s.blk.seq = frameProgram xs)
    (hpc : s.blk.seqPc = 0) (hcs : s.blk.status.csLevel = true) (hoe : s.blk.status.csOe = true) (hf : s.noFault xs.length) :
    ∃ ser, runController (xs.length + 2) s = .next (s.opened.exchanged xs ser).closed := by
  have hlen : s.blk.seq.length = xs.length + 2 := by rw [hseq, frameProgram_length]
  obtain ⟨hnext, hdrop, -⟩ := Block.next_of_drop (b := s.blk) (by rw [hpc, hseq]; rfl)
  have hopen := controllerStep_opens hnext hcs hoe (by omega)
  obtain ⟨ser, hrun⟩ := runController_exchanges (s := s.opened) (by simp) xs hdrop rfl hoe hf
  have hlast : (s.opened.exchanged xs ser).blk.nextAction = some (.cs true) := by
    show s.blk.seq[s.blk.seqPc + 1 + xs.length]? = _
    rw [hseq, hpc, frameProgram_last]
  have hend : s.blk.seqPc + 1 + xs.length + 1 = s.blk.seq.length := by omega
  exact ⟨ser, (runController_next _ hopen).trans
    ((runController_trans (n := 1) hrun).trans (runController_next 0 (controllerStep_closes hlast rfl hoe hend)))⟩

end Sys2Proof.Machine
end

section
/-! Runs of the machine whose queue is known: the controller's moves one after the other, and moves that reach neither the device nor
CMD nor ADDR. -/

namespace Sys2Proof.Machine

/-- The machine with other moves queued. -/
def State.withTurns (s : State) (ts : List Turn) : State := { s with env := { s.env with turns := ts } }

/-- The controller does not look at the queue of moves (log 7). -/
theorem controllerStep_withTurns {s t : State} (ts : List Turn) (h : controllerStep s = .next t) :
    controllerStep (s.withTurns ts) = .next (t.withTurns ts) := by
  obtain ⟨ha, rfl⟩ | ⟨ha, rfl⟩ | ⟨l, ha, rfl⟩ | ⟨tx, cap, ha, hcs, hoe, hf, rfl⟩ | ⟨tx, cap, ha, hcs, hoe, hf, rfl⟩ |
    ⟨ha, hcs, rfl⟩ := controllerStep_cases h
  · exact controllerStep_idle ha
  · exact controllerStep_oe ha
  · exact controllerStep_cs ha
  · exact controllerStep_xfer ha hcs hoe hf
  · have hfault : (s.withTurns ts).exchangeFault tx = (s.exchangeFault tx).withTurns ts := by
      simp only [State.exchangeFault, State.abort_eq]
      rfl
    rw [← hfault]
    exact controllerStep_xfer_fault ha hcs hoe hf
  · exact controllerStep_settle ha hcs

theorem step_controller_withTurns (s : State) (ts : List Turn) :
    step (s.withTurns (.controller :: ts)) = controllerStep (s.withTurns ts) := rfl

/-- Moves of the controller at the head of the queue are steps of the controller. -/
theorem runSteps_controller (n : Nat) {rest : List Turn} : ∀ {s t : State}, runController n s = .next t →
    runSteps n (s.withTurns (List.replicate n .controller ++ rest)) = .next (t.withTurns rest) := by
  induction n with
  | zero =>
    intro s t h
    cases h
    rfl
  | succ n ih =>
    intro s t h
    obtain ⟨u, hu, hrun⟩ := runController_succ h
    have hstep := (step_controller_withTurns s (List.replicate n .controller ++ rest)).trans (controllerStep_withTurns _ hu)
    exact (runSteps_next n hstep).trans (ih hrun)

theorem runSteps_succ {n : Nat} {s t : State} (h : runSteps (n + 1) s = .next t) :
    ∃ u, step s = .next u ∧ runSteps n u = .next t := by
  cases hs : step s with
  | next u => exact ⟨u, rfl, by rwa [runSteps_next n hs] at h⟩
  | fault f => simp [runSteps, hs] at h
  | refused r => simp [runSteps, hs] at h

theorem runSteps_trans {m n : Nat} : ∀ {s t : State}, runSteps m s = .next t → runSteps (m + n) s = runSteps n t := by
  induction m with
  | zero =>
    intro s t h
    cases h
    rw [Nat.zero_add]
  | succ m ih =>
    intro s t h
    obtain ⟨u, hu, hrun⟩ := runSteps_succ h
    rw [Nat.add_right_comm, runSteps_next _ hu, ih hrun]

/-- An idle machine after harmless moves: WDATA, what the host read and the queue may have changed. -/
def State.idled (s : State) (wdata hostRd : Word) (ts : List Turn) : State :=
  { s with blk := { s.blk with wdata := wdata }, env := { s.env with turns := ts, hostRd := hostRd } }

/-- Which moves are harmless hangs on the window's address alone. -/
theorem State.harmless_congr {s t : State} (h : t.params = s.params) (m : Turn) : t.harmless m = s.harmless m := by
  cases m with
  | host op => cases op <;> simp [State.harmless, State.inWindow, State.admits, h]
  | wait | frame | controller | clock | reset => rfl

theorem step_harmless {s : State} {m : Turn} {rest : List Turn} (hidle : s.blk.nextAction = none)
    (hm : s.harmless m = true) (h : s.env.turns = m :: rest) : ∃ v r, step s = .next (s.idled v r rest) := by
  rw [step_of_turns_cons h]
  cases m with
  | controller => exact ⟨s.blk.wdata, s.env.hostRd, controllerStep_idle hidle⟩
  | clock => exact ⟨s.blk.wdata, s.env.hostRd, if_neg (by simp [hidle])⟩
  | host op =>
    cases op with
    | read addr width =>
      obtain ⟨hin, hadm⟩ : s.inWindow addr width = true ∧ s.admits addr width = true := by simpa [State.harmless] using hm
      obtain ⟨rfl, off, hlt, hal, rfl⟩ := (s.inWindow_and_admits addr width).1 ⟨hin, hadm⟩
      exact ⟨s.blk.wdata, _, hostStep_read_offset (s.withTurns rest) hlt hal⟩
    | write addr width v =>
      obtain ⟨rfl, rfl⟩ : addr = s.params.base + 0x08 ∧ width = 4 := by simpa [State.harmless] using hm
      exact ⟨v, s.env.hostRd, hostStep_write_offset (s.withTurns rest) (off := 0x08) v (by decide) (by decide)⟩
  | wait | frame | reset => cases hm

theorem runSteps_harmless {rest : List Turn} (ms : List Turn) : ∀ {s : State}, s.blk.nextAction = none →
    (∀ m ∈ ms, s.harmless m = true) → s.env.turns = ms ++ rest →
    ∃ v r, runSteps ms.length s = .next (s.idled v r rest) := by
  induction ms with
  | nil =>
    intro s _ _ h
    subst h
    exact ⟨s.blk.wdata, s.env.hostRd, rfl⟩
  | cons m ms ih =>
    intro s hidle hm h
    obtain ⟨v, r, hstep⟩ := step_harmless hidle (hm m List.mem_cons_self) h
    obtain ⟨v', r', hrun⟩ := ih (s := s.idled v r (ms ++ rest)) hidle
      (fun m' hm' => hm m' (List.mem_cons_of_mem m hm')) rfl
    exact ⟨v', r', (runSteps_next _ hstep).trans hrun⟩

end Sys2Proof.Machine
end

section
/-! The round-trip law (R73): WRITE and READ from a ready machine, each from the write of its CMD word to its last action. -/

namespace Sys2Proof.Machine

theorem decodeHost_write {w : Word} (h : w.extractLsb' 0 2 = 0b10#2) : decodeHost w = .write (w.extractLsb' 2 30) := by
  simp [decodeHost, h]

theorem decodeHost_read {w : Word} (h : w.extractLsb' 0 2 = 0b11#2) : decodeHost w = .read (w.extractLsb' 2 30) := by
  simp [decodeHost, h]

/-- The address bytes of a frame, most-significant first (R118). -/
def addrBytes (a : Word) : List Byte :=
  [BitVec.ofNat 8 (a.toNat / 65536), BitVec.ofNat 8 (a.toNat / 256), BitVec.ofNat 8 a.toNat]

/-- The exchanges of WRITE (R144). -/
def writeExchanges (a v : Word) : List (Byte × Bool) :=
  (0x02#8 :: (addrBytes a ++ [BitVec.ofNat 8 v.toNat])).map fun b => (b, false)

/-- The exchanges of READ (R145): the answer to the last is captured. -/
def readExchanges (a : Word) : List (Byte × Bool) := (0x03#8 :: addrBytes a).map (fun b => (b, false)) ++ [(0x00#8, true)]

theorem writeProgram_eq_frameProgram {a : Word} (v : Word) (h : a.toNat ≤ 131071) :
    writeProgram (addrOperand a) (valueOperand v) = frameProgram (writeExchanges a v) := writeProgram_operands a v h

theorem readProgram_eq_frameProgram {a : Word} (h : a.toNat ≤ 131071) :
    readProgram (addrOperand a) = frameProgram (readExchanges a) := readProgram_operand a h

/-- What the accept of a command leaves that starts a program (R140). -/
def State.started (s : State) (op : CurOp) (seq : List Action) : State :=
  { s with blk := Block.startProgram { s.blk with status := s.blk.status.clearErrors } op seq }

/-- WRITE accepted with every check passed (R140, R141, R144). -/
theorem exec_write_started {w : Word} {s : State} (hop : w.extractLsb' 0 2 = 0b10#2) (hidle : s.blk.status.busy = false)
    (hinit : s.blk.status.init = true) (ha : s.blk.addr.toNat ≤ 131071) (hv : s.blk.wdata.toNat ≤ 255) :
    exec (decodeHost w) s = .next (s.started .write (frameProgram (writeExchanges s.blk.addr s.blk.wdata))) := by
  have hstart : Block.accept Block.startWrite s.blk = Block.startProgram { s.blk with status := s.blk.status.clearErrors } .write
      (writeProgram (addrOperand s.blk.addr) (valueOperand s.blk.wdata)) := by
    rw [Block.accept_idle hidle]
    exact if_pos (by simp [Block.initOk, Block.addrOk_eq, Block.valueOk_eq, hinit, ha, hv])
  rw [decodeHost_write hop, ← writeProgram_eq_frameProgram s.blk.wdata ha, State.started, ← hstart]
  rfl

/-- READ accepted with every check passed; WDATA is not checked (R140, R141, R145). -/
theorem exec_read_started {w : Word} {s : State} (hop : w.extractLsb' 0 2 = 0b11#2) (hidle : s.blk.status.busy = false)
    (hinit : s.blk.status.init = true) (ha : s.blk.addr.toNat ≤ 131071) :
    exec (decodeHost w) s = .next (s.started .read (frameProgram (readExchanges s.blk.addr))) := by
  have hstart : Block.accept Block.startRead s.blk = Block.startProgram { s.blk with status := s.blk.status.clearErrors } .read
      (readProgram (addrOperand s.blk.addr)) := by
    rw [Block.accept_idle hidle]
    exact if_pos (by simp [Block.initOk, Block.addrOk_eq, hinit, ha])
  rw [decodeHost_read hop, ← readProgram_eq_frameProgram ha, State.started, ← hstart]
  rfl

/-- STATUS of an initialized, idle block without an error: 0x00000302 (R25 to R35). -/
def Status.ready : Status :=
  { Status.reset with init := true, csOe := true }

theorem Status.ready_word : Status.ready.word = 0x00000302#32 := by decide

/-- Ready for WRITE and READ: the block initialized and idle, the device responsive in Byte mode (R69, R70, R216). -/
structure State.Ready (s : State) : Prop where
  idle : s.blk.seqPc = s.blk.seq.length
  status : s.blk.status.clearErrors = Status.ready
  resp : s.dev.resp = .responsive
  mode : s.dev.mode = .byte

theorem State.Ready.of_inv {s : State} (h : s.Inv) (hidle : s.blk.status.busy = false) (hinit : s.blk.status.init = true)
    (hr : s.dev.resp = .responsive) (hm : s.dev.modeIsByte = true) : s.Ready := by
  obtain ⟨hend, -, -⟩ := h.blk.idle hidle
  refine ⟨hend, ?_, hr, (Device.modeIsByte_responsive hr).1 hm⟩
  simp [Status.clearErrors, Status.ready, Status.reset, hidle, hinit, h.blk.csHigh hidle, h.blk.initDriven hinit]

theorem State.Ready.nextAction {s : State} (h : s.Ready) : s.blk.nextAction = none := by
  simp [Block.nextAction, h.idle]

/-- The flags of a ready block, one by one. -/
theorem State.Ready.flags {s : State} (h : s.Ready) :
    s.blk.status.busy = false ∧ s.blk.status.init = true ∧ s.blk.status.csLevel = true ∧ s.blk.status.csOe = true :=
  Status.eq_of_clearErrors_eq (st' := Status.ready) h.status

/-- What a command leaves that is one frame, from the step of its CMD write to its last action (R144, R145). -/
def State.commanded (s : State) (op : CurOp) (xs : List (Byte × Bool)) (ser : Serializer) (ts : List Turn) : State :=
  ((s.started op (frameProgram xs)).opened.exchanged xs ser).closed.withTurns ts

/-- The step of the CMD write, and the controller's moves to the end of the frame. -/
theorem State.Ready.runSteps_command {s : State} {w : Word} {op : CurOp} {xs : List (Byte × Bool)} {rest : List Turn}
    (h : s.Ready) (hf : s.noFault xs.length)
    (hturns : s.env.turns = .host (.write s.params.base 4 w) :: (List.replicate (xs.length + 2) .controller ++ rest))
    (hexec : ∀ ts, exec (decodeHost w) (s.withTurns ts) = .next ((s.started op (frameProgram xs)).withTurns ts)) :
    ∃ ser, runSteps (xs.length + 3) s = .next (s.commanded op xs ser rest) := by
  obtain ⟨-, -, hcs, hoe⟩ := h.flags
  have hstep := (step_of_turns_cons hturns).trans ((hostStep_write_cmd (s.withTurns _) w).trans (hexec _))
  obtain ⟨ser, hrun⟩ := runController_frame (s := s.started op (frameProgram xs)) rfl rfl hcs hoe hf
  exact ⟨ser, (runSteps_next _ hstep).trans (runSteps_controller _ hrun)⟩

/-- The device sees the command as one frame. -/
theorem State.commanded_dev (s : State) (op : CurOp) (xs : List (Byte × Bool)) (ser : Serializer) (ts : List Turn) :
    (s.commanded op xs ser ts).dev = (s.dev.csFall.clockAll (xs.map Prod.fst)).csRise := rfl

theorem State.commanded_faultsAt (s : State) (op : CurOp) (xs : List (Byte × Bool)) (ser : Serializer) (ts : List Turn)
    (k : Nat) : (s.commanded op xs ser ts).faultsAt k = s.faultsAt (xs.length + k) :=
  State.faultsAt_after (s := s) (t := s.commanded op xs ser ts) rfl rfl rfl rfl k

theorem State.commanded_idle (s : State) (op : CurOp) (xs : List (Byte × Bool)) (ser : Serializer) (ts : List Turn) :
    (s.commanded op xs ser ts).blk.seqPc = (s.commanded op xs ser ts).blk.seq.length := by
  show 0 + 1 + xs.length + 1 = (frameProgram xs).length
  rw [frameProgram_length]
  omega

/-- A command that ends leaves no error flag (R219). -/
theorem State.Ready.commanded_status {s : State} (h : s.Ready) (op : CurOp) (xs : List (Byte × Bool)) (ser : Serializer)
    (ts : List Turn) : (s.commanded op xs ser ts).blk.status = Status.ready := by
  obtain ⟨-, hinit, -, hoe⟩ := h.flags
  simp [State.commanded, State.withTurns, State.closed, State.exchanged, State.opened, State.started, Status.clearErrors,
    Status.ready, Status.reset, hinit, hoe]

/-- The last exchange of a READ captures the answer to it (R113, R123). -/
theorem captureAfter_last (tx : Byte) (pre : List Byte) : ∀ {c r : Byte} {rs : List Byte}, rs[pre.length]? = some r →
    captureAfter c (pre.map (fun b => (b, false)) ++ [(tx, true)]) rs = r := by
  induction pre with
  | nil =>
    intro c r rs h
    match rs, h with
    | r' :: _, h => exact Option.some.inj h
  | cons b pre ih =>
    intro c r rs h
    match rs, h with
    | _ :: _, h => exact ih h

/-- WRITE on a ready machine puts WDATA into the cell at ADDR and leaves the machine ready (R69, R144). -/
theorem State.Ready.runSteps_write {s : State} {w : Word} {rest : List Turn} (h : s.Ready) (hop : w.extractLsb' 0 2 = 0b10#2)
    (ha : s.blk.addr.toNat ≤ 131071) (hv : s.blk.wdata.toNat ≤ 255) (hf : s.noFault 5)
    (hturns : s.env.turns = .host (.write s.params.base 4 w) :: (List.replicate 7 .controller ++ rest)) :
    ∃ t, runSteps 8 s = .next t ∧ t.Ready ∧ t.env.turns = rest ∧ t.params = s.params ∧ t.blk.addr = s.blk.addr ∧
      t.dev.cell s.blk.addr.toNat = BitVec.ofNat 8 s.blk.wdata.toNat ∧ ∀ k, t.faultsAt k = s.faultsAt (5 + k) := by
  obtain ⟨hidle, hinit, -, -⟩ := h.flags
  obtain ⟨ser, hrun⟩ := h.runSteps_command (xs := writeExchanges s.blk.addr s.blk.wdata) hf hturns fun ts =>
    exec_write_started (s := s.withTurns ts) hop hidle hinit ha hv
  have hwrite := Device.clockAll_writeFrame h.mode (BitVec.ofNat 8 (s.blk.addr.toNat / 65536))
    (BitVec.ofNat 8 (s.blk.addr.toNat / 256)) (BitVec.ofNat 8 s.blk.addr.toNat) (BitVec.ofNat 8 s.blk.wdata.toNat)
  rw [cellOfBytes_nat ha, ← Device.csFall_responsive h.resp] at hwrite
  have hdev := (s.commanded_dev .write (writeExchanges s.blk.addr s.blk.wdata) ser rest).trans
    ((congrArg Device.csRise hwrite).trans (Device.csRise_responsive rfl))
  refine ⟨_, hrun, ⟨s.commanded_idle _ _ _ _, ?_, by rw [hdev]; rfl, by rw [hdev]; exact h.mode⟩, rfl, rfl, rfl, ?_,
    s.commanded_faultsAt _ _ _ _⟩
  · rw [h.commanded_status]
    rfl
  · rw [hdev]
    exact Device.cell_write_same (d := s.dev) (Device.inFrame_known _ _) rfl

/-- READ on a ready machine brings the cell at ADDR into RDATA (R70, R145). -/
theorem State.Ready.runSteps_read {s : State} {w : Word} {rest : List Turn} (h : s.Ready) (hop : w.extractLsb' 0 2 = 0b11#2)
    (ha : s.blk.addr.toNat ≤ 131071) (hf : s.noFault 5)
    (hturns : s.env.turns = .host (.write s.params.base 4 w) :: (List.replicate 7 .controller ++ rest)) :
    ∃ t, runSteps 8 s = .next t ∧ t.env.turns = rest ∧ t.params = s.params ∧ t.blk.seqPc = t.blk.seq.length ∧
      t.blk.status = Status.ready ∧ t.blk.rdata = (s.dev.cell s.blk.addr.toNat).zext32 := by
  obtain ⟨hidle, hinit, -, -⟩ := h.flags
  obtain ⟨ser, hrun⟩ := h.runSteps_command (xs := readExchanges s.blk.addr) hf hturns fun ts =>
    exec_read_started (s := s.withTurns ts) hop hidle hinit ha
  refine ⟨_, hrun, rfl, rfl, s.commanded_idle _ _ _ _, h.commanded_status _ _ _ _, congrArg Byte.zext32 ?_⟩
  have hheader := Device.clockAll_readHeader h.mode (BitVec.ofNat 8 (s.blk.addr.toNat / 65536))
    (BitVec.ofNat 8 (s.blk.addr.toNat / 256)) (BitVec.ofNat 8 s.blk.addr.toNat)
  refine captureAfter_last 0x00#8 (0x03#8 :: addrBytes s.blk.addr)
    ((Device.answers_append_cons (0x03#8 :: addrBytes s.blk.addr) 0x00#8 [] _ s.dev.csFall).trans ?_)
  rw [Device.csFall_responsive h.resp]
  simp only [addrBytes]
  rw [hheader, Device.drives_response h.resp h.mode, cellOfBytes_nat ha]

/-- The operand registers loaded (R22, R23). -/
def State.withOperands (s : State) (a v : Word) : State := { s with blk := { s.blk with addr := a, wdata := v } }

theorem State.Ready.withOperands {s : State} (h : s.Ready) (a v : Word) (ts : List Turn) :
    ((s.withOperands a v).withTurns ts).Ready := ⟨h.idle, h.status, h.resp, h.mode⟩

theorem State.Ready.idled {s : State} (h : s.Ready) (v r : Word) (ts : List Turn) : (s.idled v r ts).Ready :=
  ⟨h.idle, h.status, h.resp, h.mode⟩

theorem runSteps_operands {s : State} {a v : Word} {rest : List Turn}
    (hturns : s.env.turns =
      .host (.write (s.params.base + 0x04) 4 a) :: .host (.write (s.params.base + 0x08) 4 v) :: rest) :
    runSteps 2 s = .next ((s.withOperands a v).withTurns rest) := by
  have haddr : step s = .next ((s.withOperands a s.blk.wdata).withTurns (.host (.write (s.params.base + 0x08) 4 v) :: rest)) :=
    step_write_offset (off := 0x04) (by decide) (by decide) (by decide) hturns
  have hwdata : step ((s.withOperands a s.blk.wdata).withTurns (.host (.write (s.params.base + 0x08) 4 v) :: rest)) =
      .next ((s.withOperands a v).withTurns rest) :=
    step_write_offset (off := 0x08) (by decide) (by decide) (by decide) rfl
  exact (runSteps_next 1 haddr).trans (runSteps_next 0 hwdata)

/-- A word that fits a byte is the byte widened (R91, R92). -/
theorem zext32_ofNat {v : Word} (h : v.toNat ≤ 255) : Byte.zext32 (BitVec.ofNat 8 v.toNat) = v := by
  apply BitVec.eq_of_toNat_eq
  simp only [Byte.zext32, BitVec.toNat_setWidth, BitVec.toNat_ofNat]
  omega

/-- The moves of the second half of the law: READ, the controller's seven, and the read of RDATA. -/
def readBackTurns (base : Nat) (w : Word) : List Turn :=
  .host (.write base 4 w) :: (List.replicate 7 .controller ++ [.host (.read (base + 0x0C) 4)])

/-- Settles O38: the two operand writes, WRITE, the harmless moves, READ, and the read of RDATA, one after the other. -/
theorem roundTripLaw : Obligations.RoundTripLaw := by
  intro s a v w w' between hinv hbusy hinit hresp hmode ha hv hw hw' hbetween hf hturns
  have hqueue : s.env.turns = .host (.write (s.params.base + 0x04) 4 a) :: .host (.write (s.params.base + 0x08) 4 v) ::
      .host (.write s.params.base 4 w) :: (List.replicate 7 .controller ++ (between ++ readBackTurns s.params.base w')) := by
    simpa [readBackTurns] using hturns
  have hready := State.Ready.of_inv hinv hbusy hinit hresp hmode
  obtain ⟨t1, hwrite, hready1, hturns1, hparams1, haddr1, hcell, hfault1⟩ :=
    (hready.withOperands a v (.host (.write s.params.base 4 w) ::
      (List.replicate 7 .controller ++ (between ++ readBackTurns s.params.base w')))).runSteps_write hw ha hv
      (fun k hk => hf k (by omega)) rfl
  obtain ⟨v', r', hbetween⟩ := runSteps_harmless between hready1.nextAction
    (fun m hm => (State.harmless_congr hparams1 m).trans (hbetween m hm)) hturns1
  have haddr2 : (t1.idled v' r' (readBackTurns s.params.base w')).blk.addr = a := haddr1
  have hparams2 : (t1.idled v' r' (readBackTurns s.params.base w')).params = s.params := hparams1
  obtain ⟨t2, hread, hturns2, hparams3, hidle, hstatus, hrdata⟩ :=
    (hready1.idled v' r' (readBackTurns s.params.base w')).runSteps_read hw' (by rwa [haddr2])
      (fun k hk => (hfault1 k).trans (hf (5 + k) (by omega))) (by rw [hparams2]; rfl)
  have hv2 : t2.blk.rdata = v :=
    calc t2.blk.rdata
      _ = Byte.zext32 (t1.dev.cell t1.blk.addr.toNat) := hrdata
      _ = Byte.zext32 (BitVec.ofNat 8 v.toNat) := congrArg Byte.zext32 (haddr1 ▸ hcell)
      _ = v := zext32_ofNat hv
  have hlast := step_read_offset (s := t2) (off := 0x0C) (rest := []) (by decide) (by decide)
    (by rw [hturns2, hparams3, hparams2])
  have hrun :=
    calc runSteps (3 + 7 + between.length + 1 + 7 + 1) s
      _ = runSteps (2 + (8 + (between.length + (8 + 1)))) s := by congr 1; omega
      _ = runSteps (8 + (between.length + (8 + 1))) _ := runSteps_trans (runSteps_operands hqueue)
      _ = runSteps (between.length + (8 + 1)) t1 := runSteps_trans hwrite
      _ = runSteps (8 + 1) (t1.idled v' r' (readBackTurns s.params.base w')) := runSteps_trans hbetween
      _ = runSteps 1 t2 := runSteps_trans hread
      _ = runSteps 0 _ := runSteps_next 0 hlast
  exact ⟨_, hrun, hv2, hv2, (congrArg Status.word hstatus).trans Status.ready_word, rfl,
    by simp [State.runEnded, hostContinues, hidle]⟩

end Sys2Proof.Machine
end

section
/-! Decode and encode agree (R81, R82, R85 to R88): a CMD word by its OP field, a frame by its opcode. -/

namespace Sys2Proof

theorem decodeHost_rsvd {w : Word} (h : w.extractLsb' 0 2 = 0b00#2) : decodeHost w = .rsvd (w.extractLsb' 2 30) := by
  simp [decodeHost, h]

theorem decodeHost_init {w : Word} (h : w.extractLsb' 0 2 = 0b01#2) : decodeHost w = .init (w.extractLsb' 2 30) := by
  simp [decodeHost, h]

/-- OP has four values, each of them a command (R82). -/
theorem cmdWord_op_cases (w : Word) : w.extractLsb' 0 2 = 0b00#2 ∨ w.extractLsb' 0 2 = 0b01#2 ∨
    w.extractLsb' 0 2 = 0b10#2 ∨ w.extractLsb' 0 2 = 0b11#2 := by
  generalize w.extractLsb' 0 2 = op
  revert op
  decide

/-- A mode frame is read exactly where its reserved bits are 0 (R85, R95, I6). -/
theorem decodeFrame_wrmr (mode : BitVec 2) (rsv : BitVec 6) :
    decodeFrame [0x01#8, mode ++ rsv] =
      if rsv = 0#6 then .ok (.wrmr mode rsv) else .rejected (.reservedModeBits (mode ++ rsv)) := by
  simp only [decodeFrame, decodeModeFrame, modeByte_mode, modeByte_rsv, if_true]

theorem decodeFrame_wireWrite (a : BitVec 24) (d : Byte) :
    decodeFrame (0x02#8 :: (wireAddrBytes a ++ [d])) = .ok (.wireWrite a d) := by
  simp [decodeFrame, decodeWriteFrame, wireAddrBytes, wireAddr_join]

theorem decodeFrame_wireRead (a : BitVec 24) (fill : Byte) :
    decodeFrame (0x03#8 :: (wireAddrBytes a ++ [fill])) = .ok (.wireRead a fill) := by
  simp [decodeFrame, decodeReadFrame, wireAddrBytes, wireAddr_join]

/-- What is encoded decodes to itself, unless it is a mode frame whose reserved bits are not 0. -/
theorem decode_encode (i : Instr) (h : i.reservedModeBitsZero = true) : decode (encode i) = .ok i := by
  cases i with
  | rsvd r => rw [encode, decode, decodeHost_rsvd (cmdWord_op r _), cmdWord_rsv]
  | init r => rw [encode, decode, decodeHost_init (cmdWord_op r _), cmdWord_rsv]
  | write r => rw [encode, decode, Machine.decodeHost_write (cmdWord_op r _), cmdWord_rsv]
  | read r => rw [encode, decode, Machine.decodeHost_read (cmdWord_op r _), cmdWord_rsv]
  | wrmr mode rsv => exact (decodeFrame_wrmr mode rsv).trans (if_pos (beq_iff_eq.1 h))
  | wireWrite a d => exact decodeFrame_wireWrite a d
  | wireRead a fill => exact decodeFrame_wireRead a fill
  | rdmr | edio | eqio | rstio => rfl

/-- The decoder of CMD words drops no bit: `CMD[31:2]` stays in the instruction (R83). -/
theorem encode_decodeHost (w : Word) : encode (decodeHost w) = .word w := by
  rcases cmdWord_op_cases w with h | h | h | h
  · rw [decodeHost_rsvd h, encode, cmdWord_join w _ h]
  · rw [decodeHost_init h, encode, cmdWord_join w _ h]
  · rw [Machine.decodeHost_write h, encode, cmdWord_join w _ h]
  · rw [Machine.decodeHost_read h, encode, cmdWord_join w _ h]

/-- Settles O2. -/
theorem decodeEncodeAgree : Obligations.DecodeEncodeAgree :=
  ⟨decode_encode, fun mode rsv h => (decodeFrame_wrmr mode rsv).trans (if_neg h), encode_decodeHost,
    fun _ _ => Machine.encode_of_decodeFrame⟩

/-- Settles O1: the words and frames are given bit by bit, and the decoders compute. -/
theorem writtenOutWordsDecode : Obligations.WrittenOutWordsDecode := by
  unfold Obligations.WrittenOutWordsDecode
  decide

end Sys2Proof
end

section
/-! What a move reads and what it leaves alone: OP of a CMD word (R83), STATUS in a round of WAIT (R97), and a frame at the device's
pins (R84). -/

namespace Sys2Proof.Machine

/-- Settles O3: the two words name the same command, and no command's meaning reads `CMD[31:2]`. -/
theorem cmdUpperBitsIgnored : Obligations.CmdUpperBitsIgnored := by
  intro w w' s hop
  rcases cmdWord_op_cases w with h | h | h | h
  · rw [decodeHost_rsvd h, decodeHost_rsvd (hop.symm.trans h)]
    rfl
  · rw [decodeHost_init h, decodeHost_init (hop.symm.trans h)]
    rfl
  · rw [decodeHost_write h, decodeHost_write (hop.symm.trans h)]
    rfl
  · rw [decodeHost_read h, decodeHost_read (hop.symm.trans h)]
    rfl

theorem waitStep_busy {s : State} (h : s.blk.status.busy = true) :
    waitStep s = .next { s with env := { s.env with
      hostRd := s.blk.status.word, turns := .controller :: .wait :: s.env.turns } } := by
  simp [waitStep, h]

theorem waitStep_idle {s : State} (h : s.blk.status.busy = false) :
    waitStep s = .next { s with env := { s.env with hostRd := s.blk.status.word } } := by
  simp [waitStep, h]

/-- Settles O14: the round is the move at the head of the queue. -/
theorem waitPollsStatus : Obligations.WaitPollsStatus := fun _ _ hturns =>
  ⟨fun h => (step_of_turns_cons hturns).trans (waitStep_busy h), fun h => (step_of_turns_cons hturns).trans (waitStep_idle h)⟩

/-- Settles O40: a frame at the pins writes the device and the environment's record of the frame only. -/
theorem wireFramesLeaveTheBlock : Obligations.WireFramesLeaveTheBlock := by
  intro i s t hi h
  obtain ⟨bytes, e⟩ := exec_wire hi s
  obtain rfl : s.frame bytes = t := by simpa [e] using h
  exact ⟨rfl, rfl, rfl, rfl, rfl, rfl⟩

end Sys2Proof.Machine
end

section
/-! The address encoder (R118, R119): the number its three bytes spell, and what the first of them can be. -/

namespace Sys2Proof.Machine

/-- The three bytes of an address, most-significant first, spell its number (R119). -/
theorem toNat_eq_enc3_sum (a : BitVec 17) :
    a.toNat = ((a.extractLsb' 16 1).setWidth 8 : Byte).toNat * 65536 + (a.extractLsb' 8 8).toNat * 256 +
      (a.extractLsb' 0 8).toNat := by
  simp [Nat.shiftRight_eq_div_pow]
  omega

/-- The first byte of an address holds one bit (R119). -/
theorem enc3_first (a : BitVec 17) :
    ((a.extractLsb' 16 1).setWidth 8 : Byte) = 0x00#8 ∨ ((a.extractLsb' 16 1).setWidth 8 : Byte) = 0x01#8 := by
  generalize a.extractLsb' 16 1 = top
  revert top
  decide

theorem enc3_injective {a a' : BitVec 17} (h : enc3 a = enc3 a') : a = a' := by
  obtain ⟨h2, h1, h0⟩ : (a.extractLsb' 16 1).setWidth 8 = ((a'.extractLsb' 16 1).setWidth 8 : Byte) ∧
      a.extractLsb' 8 8 = a'.extractLsb' 8 8 ∧ a.extractLsb' 0 8 = a'.extractLsb' 0 8 := by simpa [enc3] using h
  apply BitVec.eq_of_toNat_eq
  rw [toNat_eq_enc3_sum a, toNat_eq_enc3_sum a', h2, h1, h0]

/-- Settles O6. -/
theorem addressEncoderProperties : Obligations.AddressEncoderProperties :=
  ⟨fun a => ⟨_, _, _, rfl, enc3_first a, toNat_eq_enc3_sum a⟩, fun _ _ => enc3_injective, by decide, by decide, by decide⟩

end Sys2Proof.Machine
end

section
/-! One action of the frame engine (R110 to R122): what it writes, what it leaves alone, and when it has a meaning. -/

namespace Sys2Proof.Machine

/-! `Block.advance` on the block: it moves SEQ_PC and completes, and writes nothing else (R120, R121). -/

@[simp] theorem Block.advance_addr (b : Block) : b.advance.addr = b.addr := by rw [Block.advance_eq]
@[simp] theorem Block.advance_wdata (b : Block) : b.advance.wdata = b.wdata := by rw [Block.advance_eq]
@[simp] theorem Block.advance_capture (b : Block) : b.advance.capture = b.capture := by rw [Block.advance_eq]
@[simp] theorem Block.advance_ser (b : Block) : b.advance.ser = b.ser := by rw [Block.advance_eq]
@[simp] theorem Block.advance_xferIdx (b : Block) : b.advance.xferIdx = b.xferIdx := by rw [Block.advance_eq]
@[simp] theorem Block.advance_csLevel (b : Block) : b.advance.status.csLevel = b.status.csLevel := by rw [Block.advance_eq]
@[simp] theorem Block.advance_csOe (b : Block) : b.advance.status.csOe = b.status.csOe := by rw [Block.advance_eq]

/-- The line is high while the latch is, driven or not (R42). -/
theorem Block.csLine_of_csLevel {b : Block} (h : b.status.csLevel = true) : b.csLine = true := by simp [Block.csLine, h]

theorem Device.seeCs_same (d : Device) (l : Bool) : d.seeCs l l = d := by cases l <;> rfl

/-- The device sees the edge of a driven pad whose level changes, and no other (R112, R68). -/
theorem State.setCs_dev_edge (s : State) (l : Bool) :
    (s.setCs l).dev =
      if s.blk.status.csOe = true ∧ s.blk.status.csLevel = true ∧ l = false then s.dev.csFall
      else if s.blk.status.csOe = true ∧ s.blk.status.csLevel = false ∧ l = true then s.dev.csRise
      else s.dev := by
  rw [State.setCs_dev, Block.csLine]
  cases s.blk.status.csOe
  · simp [Device.seeCs_same]
  · cases s.blk.status.csLevel <;> cases l <;> rfl

/-- Settles O26: `A_OE` finds the line high and leaves it high, so the device sees no edge of it. -/
theorem pinActionsWritePad : Obligations.PinActionsWritePad := by
  refine ⟨fun s ha hcs => ⟨_, controllerStep_oe ha, ?_⟩, fun s l ha => ⟨_, controllerStep_cs ha, ?_⟩⟩
  · have hdev : s.enableCs.dev = s.dev := by
      rw [State.enableCs_dev, Block.csLine_of_csLevel hcs, hcs, Device.seeCs_same]
    refine ⟨?_, ?_, ?_, hdev, rfl, rfl, Block.advance_seqPc _, Block.advance_seq _, ?_, ?_, ?_, ?_,
      s.enableCs_effect.advance_flag⟩ <;> simp [hcs]
  · refine ⟨?_, ?_, ?_, rfl, rfl, s.setCs_dev_edge l, Block.advance_seqPc _, Block.advance_seq _, ?_, ?_, ?_, ?_,
      (s.setCs_effect l).advance_flag⟩ <;> simp

/-- A device that sleeps or is unknown drives what the draw says (I1, R71). -/
theorem Device.drives_undefined {d : Device} (h : d.resp = .unknown ∨ d.resp = .asleep) (draw : Byte) : d.drives draw = draw := by
  obtain h | h := h <;> simp [Device.drives, h]

/-- Settles O27. -/
theorem exchangeWithoutFault : Obligations.ExchangeWithoutFault := by
  intro s tx cap ha hcs hoe hf
  have heffect := s.exchange_effect tx cap
  refine ⟨_, s.answer, controllerStep_xfer ha hcs hoe hf, ?_⟩
  rw [State.exchange_eq] at heffect ⊢
  refine ⟨?_, rfl, rfl, ?_, fun h => Device.drives_undefined h _, ?_, ?_, Block.advance_seqPc _, Block.advance_seq _, ?_, ?_,
    ?_, ?_, heffect.advance_flag, fun k => State.drawAt_useDraw s _ k rfl rfl ?_⟩ <;> simp [hcs, hoe]

/-- Settles O29. -/
theorem transportFaultAborts : Obligations.TransportFaultAborts := by
  intro s tx cap ha hcs hoe hf
  obtain ⟨ser, d, e, hresp, -, -, hbits, -⟩ := s.exchangeFault_eq tx hcs hoe
  refine ⟨_, controllerStep_xfer_fault ha hcs hoe hf, ?_⟩
  rw [e]
  exact ⟨rfl, rfl, rfl, rfl, rfl, rfl, rfl, rfl, rfl, hbits, hresp⟩

/-- An action that does not fault has its effect, and the program advances (R120). -/
theorem controllerStep_performed {s t : State} {a : Action} (ha : s.blk.nextAction = some a)
    (hf : ∀ tx cap, a = .xfer tx cap → s.faultsAt 0 = false) (h : controllerStep s = .next t) :
    ∃ b, ActionEffect a s.blk b ∧ t.blk = b.advance := by
  obtain ⟨hn, -⟩ | ⟨hn, rfl⟩ | ⟨l, hn, rfl⟩ | ⟨tx, cap, hn, -, -, -, rfl⟩ | ⟨tx, cap, hn, -, -, hfault, -⟩ | ⟨hn, -, rfl⟩ :=
    controllerStep_cases h <;> cases ha.symm.trans hn
  · exact ⟨_, s.enableCs_effect, rfl⟩
  · exact ⟨_, s.setCs_effect l, rfl⟩
  · exact ⟨_, s.exchange_effect tx cap, rfl⟩
  · cases (hf tx cap rfl).symm.trans hfault
  · exact ⟨_, s.blk.settle_effect, rfl⟩

/-- Before the last action BUSY stays as it is (R121). -/
theorem ActionEffect.advance_busy_inside {a : Action} {b b' : Block} (e : ActionEffect a b b') (hl : b.seqPc + 1 ≠ b.seq.length) :
    b'.advance.status.busy = b.status.busy := by
  simp [Block.advance_eq, e.seq, e.seqPc, e.status, hl]

/-- Settles O30: each register is written by `ActionEffect` and the advance, whichever action it is. -/
theorem completionByCurOp : Obligations.CompletionByCurOp := by
  intro s t a ha hf h
  obtain ⟨b, e, ht⟩ := controllerStep_performed ha hf h
  rw [ht]
  refine ⟨(Block.advance_seq b).trans e.seq, (Block.advance_seqPc b).trans (by rw [e.seqPc]),
    (Block.advance_curOp b).trans e.curOp, e.advance_flag, fun hlast => ⟨e.advance_busy hlast, ?_, ?_⟩,
    fun hinside => ⟨e.advance_busy_inside hinside, ?_, ?_⟩⟩
  · rw [e.advance_init]
    by_cases hc : s.blk.curOp = .init <;> simp [hlast, hc]
  · rw [e.advance_rdata]
    simp [hlast]
  · rw [e.advance_init]
    simp [hinside]
  · rw [e.advance_rdata]
    simp [hinside]

/-- An exchange outside a low, driven CS stops by name (R115; log 14). -/
theorem controllerStep_xfer_stuck {s : State} {tx : Byte} {cap : Bool} (ha : s.blk.nextAction = some (.xfer tx cap))
    (h : s.blk.status.csLevel = true ∨ s.blk.status.csOe = false) : controllerStep s = .fault .xferOutsideFrame := by
  obtain h | h := h <;> simp [controllerStep, ha, State.perform, State.doXfer, h, Performed.outcome]

/-- A settle inside a frame stops by name (R117; log 14). -/
theorem controllerStep_settle_stuck {s : State} (ha : s.blk.nextAction = some .settle) (h : s.blk.status.csLevel = false) :
    controllerStep s = .fault .settleInsideFrame := by
  simp [controllerStep, ha, State.perform, State.doSettle, h, Performed.outcome]

/-- Settles O55: the invariant says so of the next action, and that INIT's pulse comes before its exchanges. -/
theorem exchangesOnlyInsideFrames : Obligations.ExchangesOnlyInsideFrames := by
  refine ⟨fun s tx cap hinv ha => ?_, fun s hinv ha => ?_, fun s tx cap => controllerStep_xfer_stuck,
    fun s => controllerStep_settle_stuck⟩
  · obtain ⟨-, -, -, -, hxfer, -⟩ := hinv.blk.next ha
    obtain ⟨hcs, hoe, -, -⟩ := hxfer tx cap rfl
    exact ⟨hcs, hoe, hinv.awake (hinv.blk.pulsed_of_xfer ha)⟩
  · obtain ⟨-, -, -, -, -, hsettle, -⟩ := hinv.blk.next ha
    obtain ⟨hcs, -, -⟩ := hsettle rfl
    exact hcs

end Sys2Proof.Machine
end

section
/-! WRITE and READ run to completion from the invariant, whatever the device is (R120, R121, R144, R145). -/

namespace Sys2Proof.Machine

/-- WRITE as an instruction, accepted with every check passed (R144). -/
theorem exec_write_accepted (r : BitVec 30) {s : State} (hidle : s.blk.status.busy = false) (hinit : s.blk.status.init = true)
    (ha : s.blk.addr.toNat ≤ 131071) (hv : s.blk.wdata.toNat ≤ 255) :
    exec (.write r) s = .next (s.started .write (frameProgram (writeExchanges s.blk.addr s.blk.wdata))) := by
  have hop := cmdWord_op r 0b10#2
  rw [← exec_write_started hop hidle hinit ha hv, decodeHost_write hop]
  rfl

/-- READ as an instruction, accepted with every check passed (R145). -/
theorem exec_read_accepted (r : BitVec 30) {s : State} (hidle : s.blk.status.busy = false) (hinit : s.blk.status.init = true)
    (ha : s.blk.addr.toNat ≤ 131071) :
    exec (.read r) s = .next (s.started .read (frameProgram (readExchanges s.blk.addr))) := by
  have hop := cmdWord_op r 0b11#2
  rw [← exec_read_started hop hidle hinit ha, decodeHost_read hop]
  rfl

/-- An idle, initialized block holds CS high and drives it (R33, R216). -/
theorem State.Inv.clearErrors_ready {s : State} (h : s.Inv) (hidle : s.blk.status.busy = false)
    (hinit : s.blk.status.init = true) : s.blk.status.clearErrors = Status.ready := by
  simp [Status.clearErrors, Status.ready, Status.reset, hidle, hinit, h.blk.csHigh hidle, h.blk.initDriven hinit]

/-- The frame of a command, run to its end without a fault; the queue of moves is not looked at. -/
theorem runController_commanded {s : State} {op : CurOp} {xs : List (Byte × Bool)} (h : s.blk.status.clearErrors = Status.ready)
    (hf : s.noFault xs.length) :
    ∃ ser, runController (xs.length + 2) (s.started op (frameProgram xs)) = .next (s.commanded op xs ser s.env.turns) := by
  obtain ⟨-, -, hcs, hoe⟩ := Status.eq_of_clearErrors_eq (st' := Status.ready) h
  exact runController_frame (s := s.started op (frameProgram xs)) rfl rfl hcs hoe hf

/-- What the device answers to the bytes of a frame that the block opens here (R70). -/
def State.frameAnswers (s : State) (bytes : List Byte) : List Byte :=
  Device.answers (fun k => (s.drawAt k).miso) bytes s.dev.csFall

/-- The trace of a command that is one frame (R14). -/
theorem State.commanded_trace (s : State) (op : CurOp) (xs : List (Byte × Bool)) (ser : Serializer) (ts : List Turn) :
    (s.commanded op xs ser ts).blk.trace =
      s.blk.trace ++ Event.cs false ::
        (List.zipWith Event.x (xs.map Prod.fst) (s.frameAnswers (xs.map Prod.fst)) ++ [Event.cs true]) := by
  show s.blk.trace ++ [Event.cs false] ++ _ ++ [Event.cs true] = _
  simp only [List.append_assoc, List.cons_append, List.nil_append]
  rfl

theorem State.commanded_status {s : State} (h : s.blk.status.clearErrors = Status.ready) (op : CurOp) (xs : List (Byte × Bool))
    (ser : Serializer) (ts : List Turn) : (s.commanded op xs ser ts).blk.status = Status.ready := by
  obtain ⟨-, hinit, -, hoe⟩ := Status.eq_of_clearErrors_eq (st' := Status.ready) h
  show { Status.ready with init := decide (op = .init) || s.blk.status.init, csOe := s.blk.status.csOe } = Status.ready
  simp [hinit, hoe, Status.ready]

/-- A write frame of the block at a responsive device in Byte mode (R69, R144). -/
theorem State.commanded_write_dev {s : State} (hr : s.dev.resp = .responsive) (hm : s.dev.mode = .byte)
    (ha : s.blk.addr.toNat ≤ 131071) (op : CurOp) (ser : Serializer) (ts : List Turn) :
    (s.commanded op (writeExchanges s.blk.addr s.blk.wdata) ser ts).dev =
      Device.inFrame { s.dev with mem := Memory.write s.dev.mem s.blk.addr.toNat (BitVec.ofNat 8 s.blk.wdata.toNat) }
        (0x02#8 :: (addrBytes s.blk.addr ++ [BitVec.ofNat 8 s.blk.wdata.toNat])) := by
  have hwrite := Device.clockAll_writeFrame hm (BitVec.ofNat 8 (s.blk.addr.toNat / 65536))
    (BitVec.ofNat 8 (s.blk.addr.toNat / 256)) (BitVec.ofNat 8 s.blk.addr.toNat) (BitVec.ofNat 8 s.blk.wdata.toNat)
  rw [cellOfBytes_nat ha, ← Device.csFall_responsive hr] at hwrite
  exact (congrArg Device.csRise hwrite).trans (Device.csRise_responsive rfl)

/-- Settles O33: the trace and STATUS hold of any device, the cells of one in Byte mode. -/
theorem writeRunsToCompletion : Obligations.WriteRunsToCompletion := by
  intro r s hinv hidle hinit ha hv hf
  have hready := hinv.clearErrors_ready hidle hinit
  obtain ⟨ser, hrun⟩ := runController_commanded (op := .write) (xs := writeExchanges s.blk.addr s.blk.wdata) hready hf
  refine ⟨_, _, _, _, _, _, _, exec_write_accepted r hidle hinit ha hv, hrun, State.commanded_trace _ _ _ _ _, ?_, rfl, rfl, rfl,
    fun hr hm => ?_⟩
  · rw [State.commanded_status hready, Status.ready_word]
  · have hbyte := (Device.modeIsByte_responsive hr).1 hm
    rw [State.commanded_write_dev hr hbyte ha]
    exact ⟨rfl, (Device.modeIsByte_responsive rfl).2 hbyte, Device.cell_write_same (d := s.dev) (Device.inFrame_known _ _) rfl,
      fun x hx => Device.cell_write_other (Device.known_of_responsive hr) (Device.inFrame_known _ _) rfl hx⟩

/-- A read frame of the block at a responsive device in Byte mode (R70, R145). -/
theorem State.commanded_read_dev {s : State} (hr : s.dev.resp = .responsive) (hm : s.dev.mode = .byte) (op : CurOp)
    (ser : Serializer) (ts : List Turn) :
    (s.commanded op (readExchanges s.blk.addr) ser ts).dev = s.dev.inFrame (0x03#8 :: (addrBytes s.blk.addr ++ [0x00#8])) := by
  have hread := Device.clockAll_readFrame hm (BitVec.ofNat 8 (s.blk.addr.toNat / 65536))
    (BitVec.ofNat 8 (s.blk.addr.toNat / 256)) (BitVec.ofNat 8 s.blk.addr.toNat) 0x00#8
  rw [← Device.csFall_responsive hr] at hread
  exact (congrArg Device.csRise hread).trans (Device.csRise_responsive rfl)

/-- After the header of its read frame the block receives the addressed cell (R70, R92). -/
theorem State.drives_after_header {s : State} (hr : s.dev.resp = .responsive) (hm : s.dev.mode = .byte)
    (ha : s.blk.addr.toNat ≤ 131071) (draw : Byte) :
    (s.dev.csFall.clockAll (0x03#8 :: addrBytes s.blk.addr)).drives draw = s.dev.cell s.blk.addr.toNat := by
  rw [Device.csFall_responsive hr, addrBytes, Device.clockAll_readHeader hm, Device.drives_response hr hm, cellOfBytes_nat ha]

/-- Settles O34: the byte received in the response exchange is what the device drives after the header. -/
theorem readRunsToCompletion : Obligations.ReadRunsToCompletion := by
  intro r s hinv hidle hinit ha hf
  have hready := hinv.clearErrors_ready hidle hinit
  obtain ⟨ser, hrun⟩ := runController_commanded (op := .read) (xs := readExchanges s.blk.addr) hready hf
  refine ⟨_, _, _, _, _, _, (s.dev.csFall.clockAll (0x03#8 :: addrBytes s.blk.addr)).drives (s.drawAt 4).miso,
    exec_read_accepted r hidle hinit ha, hrun, State.commanded_trace _ _ _ _ _, ?_, rfl, rfl, rfl, rfl, fun hu => ?_,
    fun hr hm => ?_⟩
  · rw [State.commanded_status hready, Status.ready_word]
  · exact Device.drives_undefined (.inl (Device.clockAll_unknown _ _ (Device.csFall_unknown hu))) _
  · have hbyte := (Device.modeIsByte_responsive hr).1 hm
    obtain ⟨hmode, hcells⟩ := Device.reads_eq (Device.known_of_responsive hr)
      (s.dev.inFrame_known (0x03#8 :: (addrBytes s.blk.addr ++ [0x00#8]))) rfl rfl
    rw [State.commanded_read_dev hr hbyte]
    exact ⟨State.drives_after_header hr hbyte ha _, rfl, hmode.trans hm, hcells⟩

end Sys2Proof.Machine
end

section
/-! A transport fault inside a frame (R122): the exchanges before it are on the wire, then `XF`, then CS is released. -/

namespace Sys2Proof.Machine

/-- The exchanges on the wire send the bytes they were given, as many as the device answered. -/
theorem sentBytes_zipWith (bytes : List Byte) : ∀ {rs : List Byte}, rs.length = bytes.length →
    sentBytes (List.zipWith Event.x bytes rs) = bytes := by
  induction bytes with
  | nil => intros; rfl
  | cons b bytes ih =>
    intro rs h
    match rs, h with
    | _ :: _, h => exact congrArg (b :: ·) (ih (Nat.succ.inj h))

/-- The run from `s` to `t` inside a frame ended with a fault at exchange `k` of those that send `bytes` (R122). -/
structure State.FaultedAt (s t : State) (bytes : List Byte) (k : Nat) : Prop where
  trace : ∃ es, es.length = k ∧ sentBytes es = bytes.take k ∧
    t.blk.trace = s.blk.trace ++ (es ++ [Event.xf (bytes.getD k 0x00#8), Event.cs true])
  status : t.blk.status = { s.blk.status with csLevel := true, errXport := true, busy := false }
  rdata : t.blk.rdata = s.blk.rdata
  resp : t.dev.resp = .unknown

/-- Exchanges that do not fault, and one that does: no action follows it. -/
theorem runController_exchanges_fault {pre post : List (Byte × Bool)} {x : Byte × Bool} {rest : List Action} {s : State}
    (hseq : s.blk.seq.drop s.blk.seqPc = exchangeActions (pre ++ x :: post) ++ rest) (hcs : s.blk.status.csLevel = false)
    (hoe : s.blk.status.csOe = true) (hf : s.noFault pre.length) (hfault : s.faultsAt pre.length = true) :
    ∃ t, runController (pre.length + 1) s = .next t ∧ s.FaultedAt t ((pre ++ x :: post).map Prod.fst) pre.length := by
  have hseq' : s.blk.seq.drop s.blk.seqPc = exchangeActions pre ++ .xfer x.1 x.2 :: (exchangeActions post ++ rest) := by
    simpa [exchangeActions] using hseq
  have hdrop : s.blk.seq.drop (s.blk.seqPc + pre.length) = .xfer x.1 x.2 :: (exchangeActions post ++ rest) := by
    rw [← List.drop_drop, hseq', List.drop_left' (by simp [exchangeActions])]
  obtain ⟨ser, hrun⟩ := runController_exchanges (by simp) pre hseq' hcs hoe hf
  obtain ⟨hnext, -, -⟩ := Block.next_of_drop (b := (s.exchanged pre ser).blk) hdrop
  have hstep := controllerStep_xfer_fault hnext hcs hoe ((s.exchanged_faultsAt pre ser 0).trans hfault)
  obtain ⟨ser', d, e, hresp, -⟩ := (s.exchanged pre ser).exchangeFault_eq x.1 hcs hoe
  have hlen : (s.answers (pre.map Prod.fst)).length = (pre.map Prod.fst).length := Device.answers_length _ _ _
  refine ⟨_, (runController_trans (n := 1) hrun).trans (runController_next 0 hstep), ?_⟩
  rw [e]
  refine ⟨⟨List.zipWith Event.x (pre.map Prod.fst) (s.answers (pre.map Prod.fst)), by simp [hlen], ?_, ?_⟩, rfl, rfl, hresp⟩
  · rw [sentBytes_zipWith _ hlen]
    simp
  · simp [State.exchanged]

/-- The same by the index of the exchange that faults. -/
theorem runController_faultAt {xs : List (Byte × Bool)} {rest : List Action} {s : State} {k : Nat} (hk : k < xs.length)
    (hseq : s.blk.seq.drop s.blk.seqPc = exchangeActions xs ++ rest) (hcs : s.blk.status.csLevel = false)
    (hoe : s.blk.status.csOe = true) (hf : s.noFault k) (hfault : s.faultsAt k = true) :
    ∃ t, runController (k + 1) s = .next t ∧ s.FaultedAt t (xs.map Prod.fst) k := by
  have hxs : xs.take k ++ xs[k] :: xs.drop (k + 1) = xs := by
    rw [← List.drop_eq_getElem_cons hk, List.take_append_drop]
  have hlen : (xs.take k).length = k := List.length_take_of_le hk.le
  have h := runController_exchanges_fault (pre := xs.take k) (x := xs[k]) (post := xs.drop (k + 1)) (rest := rest) (s := s)
  rw [hxs, hlen] at h
  exact h hseq hcs hoe hf hfault

/-- A command that is one frame, up to the fault. -/
theorem runController_command_fault {s : State} {op : CurOp} {xs : List (Byte × Bool)} {k : Nat} (hk : k < xs.length)
    (h : s.blk.status.clearErrors = Status.ready) (hf : s.noFault k) (hfault : s.faultsAt k = true) :
    ∃ t, runController (k + 2) (s.started op (frameProgram xs)) = .next t ∧
      (s.started op (frameProgram xs)).opened.FaultedAt t (xs.map Prod.fst) k := by
  obtain ⟨-, -, hcs, hoe⟩ := Status.eq_of_clearErrors_eq (st' := Status.ready) h
  have hopen := controllerStep_opens (s := s.started op (frameProgram xs)) rfl hcs hoe
    (by simp [State.started, frameProgram_length])
  obtain ⟨t, hrun, hfaulted⟩ := runController_faultAt (s := (s.started op (frameProgram xs)).opened) hk rfl rfl hoe hf hfault
  exact ⟨t, (runController_next _ hopen).trans hrun, hfaulted⟩

/-- STATUS after a fault of WRITE or READ: INIT, ERR_XPORT, CS_LEVEL and CS_OE (R25 to R35). -/
theorem Status.ready_fault_word : ({ Status.ready with errXport := true } : Status).word = 0x00000322#32 := by decide

/-- What a fault of a command that is one frame leaves of the block and the device (R122, R187). -/
theorem exec_frame_fault {i : Instr} {s : State} {op : CurOp} {xs : List (Byte × Bool)} {k : Nat}
    (h : s.blk.status.clearErrors = Status.ready) (hexec : exec i s = .next (s.started op (frameProgram xs)))
    (hk : k < xs.length) (hf : s.noFault k) (hfault : s.faultsAt k = true) :
    ∃ s1 t es, exec i s = .next s1 ∧ runController (k + 2) s1 = .next t ∧
      t.blk.trace = s.blk.trace ++ Event.cs false :: (es ++ [Event.xf ((xs.map Prod.fst).getD k 0x00#8), .cs true]) ∧
      es.length = k ∧ sentBytes es = (xs.map Prod.fst).take k ∧
      t.blk.status.word = 0x00000322#32 ∧ t.blk.rdata = s.blk.rdata ∧ t.dev.resp = .unknown := by
  obtain ⟨t, hrun, ⟨es, hlen, hsent, htrace⟩, hstatus, hrdata, hresp⟩ := runController_command_fault (op := op) hk h hf hfault
  have hready : t.blk.status = { Status.ready with errXport := true } := by
    obtain ⟨-, hinit, -, hoe⟩ := Status.eq_of_clearErrors_eq (st' := Status.ready) h
    rw [hstatus]
    simp [State.opened, State.started, Status.ready, Status.reset, hinit, hoe]
  refine ⟨_, t, es, hexec, hrun, ?_, hlen, hsent, hready ▸ Status.ready_fault_word, hrdata, hresp⟩
  rw [htrace]
  exact List.append_assoc _ _ _

/-- Settles O35: WRITE and READ differ in their exchanges only. -/
theorem faultDuringFrame : Obligations.FaultDuringFrame := by
  intro r i op v s k hi hinv hidle hinit ha hk hf hfault
  have hready := hinv.clearErrors_ready hidle hinit
  obtain ⟨rfl, rfl, rfl, hv⟩ | ⟨rfl, rfl, rfl⟩ := hi
  · exact exec_frame_fault hready (exec_write_accepted r hidle hinit ha hv) hk hf hfault
  · exact exec_frame_fault hready (exec_read_accepted r hidle hinit ha) hk hf hfault

end Sys2Proof.Machine
end

section
/-! INIT (R143): the pulse, the mode-set frame and the settle, with and without a fault. -/

namespace Sys2Proof.Machine

/-- What the accept of INIT leaves (R140, R143). -/
def State.initStarted (s : State) : State :=
  State.started { s with blk := { s.blk with status := { s.blk.status with init := false } } } .init initProgram

theorem exec_init_accepted (r : BitVec 30) {s : State} (hidle : s.blk.status.busy = false) :
    exec (.init r) s = .next s.initStarted := by
  have hstart : Block.accept Block.startInit s.blk = s.initStarted.blk := Block.accept_idle hidle
  show Host.Outcome.next { s with blk := Block.accept Block.startInit s.blk } = _
  rw [hstart]
  rfl

/-- What `A_OE` leaves inside a program that finds CS high (R111). -/
def State.afterOe (s : State) : State :=
  { s with
    blk := { s.blk with
      seqPc := s.blk.seqPc + 1
      status := { s.blk.status with csOe := true }
      trace := s.blk.trace ++ [.oe] } }

theorem controllerStep_afterOe {s : State} (h : s.blk.nextAction = some .oe) (hcs : s.blk.status.csLevel = true)
    (hl : s.blk.seqPc + 1 ≠ s.blk.seq.length) : controllerStep s = .next s.afterOe := by
  rw [controllerStep_oe h, Block.advance_inside (b := s.enableCs.blk) hl]
  simp [State.afterOe, Block.csLine_of_csLevel hcs, hcs, Device.seeCs_same]

/-- What `A_CS(l)` leaves inside a program while the pad is driven (R112). -/
def State.afterCs (s : State) (l : Bool) : State :=
  { s with
    blk := { s.blk with
      seqPc := s.blk.seqPc + 1
      status := { s.blk.status with csLevel := l }
      trace := s.blk.trace ++ [.cs l] }
    dev := s.dev.seeCs s.blk.status.csLevel l }

theorem controllerStep_afterCs {s : State} {l : Bool} (h : s.blk.nextAction = some (.cs l)) (hoe : s.blk.status.csOe = true)
    (hl : s.blk.seqPc + 1 ≠ s.blk.seq.length) : controllerStep s = .next (s.afterCs l) := by
  rw [controllerStep_cs h, Block.advance_inside (b := (s.setCs l).blk) hl]
  simp [State.afterCs, Block.csLine, hoe]

/-- What `A_SETTLE` leaves as the last action of INIT (R117, R121). -/
def State.settled (s : State) : State :=
  { s with
    blk := { s.blk with
      settleCnt := 0
      seqPc := s.blk.seqPc + 1
      status := { s.blk.status with init := true, busy := false }
      trace := s.blk.trace ++ [.settle] } }

theorem controllerStep_settled {s : State} (h : s.blk.nextAction = some .settle) (hcs : s.blk.status.csLevel = true)
    (hop : s.blk.curOp = .init) (hl : s.blk.seqPc + 1 = s.blk.seq.length) : controllerStep s = .next s.settled := by
  rw [controllerStep_settle h hcs, Block.advance_last (b := Block.emit { s.blk with settleCnt := 0 } .settle) hl,
    Block.complete_eq]
  simp [State.settled, hop]

/-- INIT's first five actions: the pad driven, the pulse, and the frame opened (R143). -/
def State.pulseDone (s : State) : State :=
  { s with
    blk := { s.blk with
      seqPc := 5
      status := { s.blk.status with csLevel := false, csOe := true }
      trace := s.blk.trace ++ [.oe, .cs true, .cs false, .cs true, .cs false] }
    dev := s.dev.csFall.csRise.csFall }

theorem runController_pulse {s : State} (hcs : s.blk.status.csLevel = true) :
    runController 5 s.initStarted = .next s.initStarted.pulseDone := by
  have hend : ((((s.initStarted.afterOe.afterCs true).afterCs false).afterCs true).afterCs false) = s.initStarted.pulseDone := by
    simp [State.initStarted, State.started, State.afterOe, State.afterCs, State.pulseDone, Device.seeCs, hcs]
  have hoe : controllerStep s.initStarted = .next s.initStarted.afterOe :=
    controllerStep_afterOe rfl hcs (show 1 ≠ 9 by decide)
  rw [← hend, runController_next 4 hoe, runController_next 3 (controllerStep_afterCs rfl rfl (show 2 ≠ 9 by decide)),
    runController_next 2 (controllerStep_afterCs rfl rfl (show 3 ≠ 9 by decide)),
    runController_next 1 (controllerStep_afterCs rfl rfl (show 4 ≠ 9 by decide)),
    runController_next 0 (controllerStep_afterCs rfl rfl (show 5 ≠ 9 by decide)), runController_zero]

/-- The exchanges of the mode-set frame (R143). -/
def initExchanges : List (Byte × Bool) := [(0x01#8, false), (0x00#8, false)]

/-- What INIT leaves that runs without a fault (R121, R143). -/
def State.initDone (s : State) (ser : Serializer) : State :=
  ((s.initStarted.pulseDone.exchanged initExchanges ser).afterCs true).settled

theorem runController_init {s : State} (hcs : s.blk.status.csLevel = true) (hf : s.noFault 2) :
    ∃ ser, runController 9 s.initStarted = .next (s.initDone ser) := by
  obtain ⟨ser, hframe⟩ := runController_exchanges (s := s.initStarted.pulseDone) (rest := [.cs true, .settle]) (by simp)
    initExchanges rfl rfl rfl hf
  have hclose := controllerStep_afterCs (s := s.initStarted.pulseDone.exchanged initExchanges ser) (l := true) rfl rfl
    (show 8 ≠ 9 by decide)
  have hend : controllerStep _ = .next (s.initDone ser) := controllerStep_settled rfl rfl rfl rfl
  refine ⟨ser, ?_⟩
  calc runController (5 + (2 + 2)) s.initStarted
    _ = runController (2 + 2) s.initStarted.pulseDone := runController_trans (runController_pulse hcs)
    _ = runController 2 (s.initStarted.pulseDone.exchanged initExchanges ser) := runController_trans hframe
    _ = runController 1 _ := runController_next 1 hclose
    _ = .next (s.initDone ser) := runController_next 0 hend

/-- The trace of INIT (R14, R143). -/
theorem State.initDone_trace (s : State) (ser : Serializer) :
    (s.initDone ser).blk.trace = s.blk.trace ++ ([Event.oe, .cs true, .cs false, .cs true, .cs false] ++
      (List.zipWith .x [0x01#8, 0x00#8] (s.initStarted.pulseDone.answers [0x01#8, 0x00#8]) ++ [Event.cs true, .settle])) := by
  show s.blk.trace ++ _ ++ _ ++ [Event.cs true] ++ [Event.settle] = _
  simp only [List.append_assoc]
  rfl

/-- The pulse leaves a device that is not unknown responsive, with nothing else changed (R67, R71). -/
theorem Device.pulse_inFrame {d : Device} (h : d.resp ≠ .unknown) : d.csFall.csRise.csFall = d.inFrame [] := by
  obtain hr | hr : d.resp = .asleep ∨ d.resp = .responsive := by
    cases hr : d.resp <;> simp_all
  · rw [Device.csFall_asleep hr]
    simp [Device.csRise, hr, Device.csFall, Device.inFrame]
  · rw [Device.csFall_responsive hr]
    rfl

/-- INIT takes a device that is not unknown into Byte mode (R67, R68). -/
theorem State.initDone_dev {s : State} (h : s.dev.resp ≠ .unknown) (ser : Serializer) :
    (s.initDone ser).dev = Device.inFrame { s.dev with mode := .byte } [0x01#8, 0x00#8] := by
  show ((s.dev.csFall.csRise.csFall).clockAll [0x01#8, 0x00#8]).csRise = _
  rw [Device.pulse_inFrame h, Device.clockAll_modeFrame]
  rfl

/-- Settles O32: the pulse wakes the device before the mode-set frame reaches it. -/
theorem initRunsToCompletion : Obligations.InitRunsToCompletion := by
  intro r s hinv hidle hf
  obtain ⟨ser, hrun⟩ := runController_init (hinv.blk.csHigh hidle) hf
  refine ⟨_, _, _, _, exec_init_accepted r hidle, hrun, s.initDone_trace ser, Status.ready_word, rfl, rfl, rfl, fun hd => ?_⟩
  rw [State.initDone_dev hd]
  exact ⟨rfl, rfl, Device.cell_eq hd (Device.inFrame_known _ _) rfl⟩

/-- STATUS after a fault of INIT: ERR_XPORT, CS_LEVEL and CS_OE (R25 to R35). -/
theorem Status.init_fault_word : ({ Status.reset with errXport := true, csOe := true } : Status).word = 0x00000320#32 := by
  decide

/-- Settles O36: the pulse, then the exchange that faults; the abort leaves STATUS.INIT as the accept cleared it. -/
theorem faultDuringInit : Obligations.FaultDuringInit := by
  intro r s k hinv hidle hk hf hfault
  obtain ⟨t, hrun, ⟨es, hlen, hsent, htrace⟩, hstatus, hrdata, -⟩ :=
    runController_faultAt (xs := initExchanges) (rest := [.cs true, .settle]) (s := s.initStarted.pulseDone) hk rfl rfl
      rfl hf hfault
  refine ⟨_, t, es, exec_init_accepted r hidle, ?_, ?_, hlen, hsent, ?_, hrdata⟩
  · rw [show k + 6 = 5 + (k + 1) by omega]
    exact (runController_trans (runController_pulse (hinv.blk.csHigh hidle))).trans hrun
  · rw [htrace]
    exact (List.append_assoc _ _ _).trans (congrArg _ (List.append_assoc _ _ _).symm)
  · rw [hstatus]
    exact Status.init_fault_word

end Sys2Proof.Machine
end

section
/-! The host commands (R140 to R147), each as an exact next state: dropped while busy, started, or refused by its checks; and the
controller that a write of the operand registers does not reach (R147). -/

namespace Sys2Proof.Machine

/-! A host command is an accept with its own start (R142, R144, R145). -/

theorem exec_rsvd (r : BitVec 30) (s : State) :
    exec (.rsvd r) s = .next { s with blk := Block.accept Block.startRsvd s.blk } := rfl

theorem exec_write (r : BitVec 30) (s : State) :
    exec (.write r) s = .next { s with blk := Block.accept Block.startWrite s.blk } := rfl

theorem exec_read (r : BitVec 30) (s : State) :
    exec (.read r) s = .next { s with blk := Block.accept Block.startRead s.blk } := rfl

/-! The flag of a check after the check (R141, R186). -/

theorem Status.raiseUnless_noinit (st : Status) (ok : Bool) :
    st.raiseUnless ok .noinit = { st with errNoinit := !ok || st.errNoinit } := by cases ok <;> rfl

theorem Status.raiseUnless_addr (st : Status) (ok : Bool) :
    st.raiseUnless ok .addr = { st with errAddr := !ok || st.errAddr } := by cases ok <;> rfl

theorem Status.raiseUnless_value (st : Status) (ok : Bool) :
    st.raiseUnless ok .value = { st with errValue := !ok || st.errValue } := by cases ok <;> rfl

/-- WRITE with a check that fails: each check that fails raises its flag, and no program starts (R144). -/
theorem Block.startWrite_refused {b : Block}
    (h : b.status.init = false ∨ 131071 < b.addr.toNat ∨ 255 < b.wdata.toNat) :
    b.startWrite = { b with status := { b.status with
      errAddr := decide (131071 < b.addr.toNat) || b.status.errAddr
      errValue := decide (255 < b.wdata.toNat) || b.status.errValue
      errNoinit := !b.status.init || b.status.errNoinit } } := by
  have hfails : ¬ (b.initOk && b.addrOk && b.valueOk) = true := by
    rw [Block.initOk, Block.addrOk_eq, Block.valueOk_eq]
    rcases h with h | h | h <;> simp [h]
  rw [Block.startWrite, if_neg hfails, Status.raiseUnless_noinit, Status.raiseUnless_addr, Status.raiseUnless_value,
    Block.initOk, Block.addrOk_eq, Block.valueOk_eq]
  simp [← decide_not]

/-- READ with a check that fails: as WRITE, WDATA not checked (R145). -/
theorem Block.startRead_refused {b : Block} (h : b.status.init = false ∨ 131071 < b.addr.toNat) :
    b.startRead = { b with status := { b.status with
      errAddr := decide (131071 < b.addr.toNat) || b.status.errAddr
      errNoinit := !b.status.init || b.status.errNoinit } } := by
  have hfails : ¬ (b.initOk && b.addrOk) = true := by
    rw [Block.initOk, Block.addrOk_eq]
    rcases h with h | h <;> simp [h]
  rw [Block.startRead, if_neg hfails, Status.raiseUnless_noinit, Status.raiseUnless_addr, Block.initOk, Block.addrOk_eq]
  simp [← decide_not]

/-- Settles O16. -/
theorem rsvdSetsErrCmd : Obligations.RsvdSetsErrCmd := by
  refine ⟨fun w hop => ⟨_, decodeHost_rsvd hop⟩, fun r s hidle => ?_, fun r s hbusy => ?_⟩
  · rw [exec_rsvd, Block.accept_idle hidle]
    rfl
  · rw [exec_rsvd, Block.accept_busy hbusy]
    rfl

/-- Settles O17: whatever the word names, it is an accept, which a busy block drops. -/
theorem busyDropsEveryCommand : Obligations.BusyDropsEveryCommand := by
  intro w s hbusy
  obtain ⟨start, -, hexec, -⟩ := exec_decodeHost w s
  rw [hexec, Block.accept_busy hbusy]
  rfl

/-- Settles O18. -/
theorem initAccepted : Obligations.InitAccepted := fun r _ hidle => exec_init_accepted r hidle

/-- Settles O19. -/
theorem writeAccepted : Obligations.WriteAccepted := fun r _ hidle hinit ha hv => exec_write_accepted r hidle hinit ha hv

/-- Settles O20. -/
theorem readAccepted : Obligations.ReadAccepted := fun r _ hidle hinit ha => exec_read_accepted r hidle hinit ha

/-- Settles O21: the checks of WRITE, on a block whose flags the accept has cleared. -/
theorem writeRefusedByChecks : Obligations.WriteRefusedByChecks := by
  intro r s hidle hfails
  rw [exec_write, Block.accept_idle hidle,
    Block.startWrite_refused (b := { s.blk with status := s.blk.status.clearErrors }) hfails]
  simp [Status.clearErrors]

/-- Settles O22: the checks of READ, on a block whose flags the accept has cleared. -/
theorem readRefusedByChecks : Obligations.ReadRefusedByChecks := by
  intro r s hidle hfails
  rw [exec_read, Block.accept_idle hidle,
    Block.startRead_refused (b := { s.blk with status := s.blk.status.clearErrors }) hfails]
  simp [Status.clearErrors]

/-- The block after an accept: BUSY with every error flag clear and a program from its first action on, or idle with an error flag
set (R140). -/
def Block.startedOrFlagged (b : Block) : Prop :=
  (b.status.busy = true ∧ b.seqPc = 0 ∧ b.seq ≠ [] ∧ ∀ e, b.status.flag e = false) ∨
    (b.status.busy = false ∧ ∃ e, b.status.flag e = true)

/-- A program started after the error flags were cleared. -/
theorem State.started_startedOrFlagged (s : State) (op : CurOp) {seq : List Action} (h : seq ≠ []) :
    (s.started op seq).blk.startedOrFlagged :=
  .inl ⟨rfl, rfl, h, fun e => by cases e <;> rfl⟩

/-- Accepted by an idle block, WRITE starts its program where every check holds, and else the first check that fails has its flag
set (R144, R186). -/
theorem exec_write_startedOrFlagged (r : BitVec 30) {s : State} (hidle : s.blk.status.busy = false) :
    ∃ t, exec (.write r) s = .next t ∧ t.blk.startedOrFlagged ∧ t.dev = s.dev := by
  by_cases hok : s.blk.status.init = true ∧ s.blk.addr.toNat ≤ 131071 ∧ s.blk.wdata.toNat ≤ 255
  · obtain ⟨hinit, ha, hv⟩ := hok
    exact ⟨_, exec_write_accepted r hidle hinit ha hv, s.started_startedOrFlagged _ (List.cons_ne_nil _ _), rfl⟩
  · have hfails : s.blk.status.init = false ∨ 131071 < s.blk.addr.toNat ∨ 255 < s.blk.wdata.toNat := by
      simpa [or_iff_not_imp_left] using hok
    refine ⟨_, writeRefusedByChecks r s hidle hfails, .inr ⟨hidle, ?_⟩, rfl⟩
    rcases hfails with h | h | h
    · exact ⟨.noinit, by simp [Status.flag, h]⟩
    · exact ⟨.addr, by simp [Status.flag, h]⟩
    · exact ⟨.value, by simp [Status.flag, h]⟩

/-- Accepted by an idle block, READ starts its program where both checks hold, and else the first check that fails has its flag
set (R145, R186). -/
theorem exec_read_startedOrFlagged (r : BitVec 30) {s : State} (hidle : s.blk.status.busy = false) :
    ∃ t, exec (.read r) s = .next t ∧ t.blk.startedOrFlagged ∧ t.dev = s.dev := by
  by_cases hok : s.blk.status.init = true ∧ s.blk.addr.toNat ≤ 131071
  · obtain ⟨hinit, ha⟩ := hok
    exact ⟨_, exec_read_accepted r hidle hinit ha, s.started_startedOrFlagged _ (List.cons_ne_nil _ _), rfl⟩
  · have hfails : s.blk.status.init = false ∨ 131071 < s.blk.addr.toNat := by simpa [or_iff_not_imp_left] using hok
    refine ⟨_, readRefusedByChecks r s hidle hfails, .inr ⟨hidle, ?_⟩, rfl⟩
    rcases hfails with h | h
    · exact ⟨.noinit, by simp [Status.flag, h]⟩
    · exact ⟨.addr, by simp [Status.flag, h]⟩

/-- What a CMD word does to an idle block, by its OP field (R140). -/
theorem exec_decodeHost_startedOrFlagged (w : Word) {s : State} (hidle : s.blk.status.busy = false) :
    ∃ t, exec (decodeHost w) s = .next t ∧ t.blk.startedOrFlagged ∧ t.dev = s.dev := by
  obtain ⟨-, hrsvd, -⟩ := rsvdSetsErrCmd
  rcases cmdWord_op_cases w with h | h | h | h
  · rw [decodeHost_rsvd h]
    exact ⟨_, hrsvd _ s hidle, .inr ⟨hidle, .cmd, rfl⟩, rfl⟩
  · rw [decodeHost_init h]
    exact ⟨_, exec_init_accepted _ hidle, State.started_startedOrFlagged _ _ (List.cons_ne_nil _ _), rfl⟩
  · rw [decodeHost_write h]
    exact exec_write_startedOrFlagged _ hidle
  · rw [decodeHost_read h]
    exact exec_read_startedOrFlagged _ hidle

/-- Settles O23: no command of the four appends to the trace. -/
theorem acceptStartsOrFlags : Obligations.AcceptStartsOrFlags := by
  intro w s hidle
  obtain ⟨t, hexec, hblk, hdev⟩ := exec_decodeHost_startedOrFlagged w hidle
  exact ⟨t, hexec, hblk, exec_trace hexec, hdev⟩

/-- All a CMD write writes of the block: `CUR_OP`, SEQ, SEQ_PC and STATUS, and of STATUS neither CS_LEVEL nor CS_OE (R140). -/
theorem Block.accept_frame {start : Block → Block} (hs : start ∈ commandStarts) (b : Block) :
    ∃ op seq pc st, Block.accept start b = { b with curOp := op, seq := seq, seqPc := pc, status := st } ∧
      st.csLevel = b.status.csLevel ∧ st.csOe = b.status.csOe := by
  cases hb : b.status.busy
  · rw [Block.accept_idle hb]
    obtain ⟨st, hst, e⟩ | ⟨-, e⟩ | ⟨op, seq, -, -, -, -, e⟩ := Block.start_cases hs { b with status := b.status.clearErrors }
    · obtain ⟨-, -, hlevel, hoe⟩ := Status.eq_of_clearErrors_eq hst
      exact ⟨_, _, _, st, e, hlevel, hoe⟩
    · exact ⟨_, _, _, _, e, rfl, rfl⟩
    · exact ⟨_, _, _, _, e, rfl, rfl⟩
  · exact ⟨_, _, _, _, Block.accept_busy hb, Status.raise_csLevel _ _, Status.raise_csOe _ _⟩

/-- Settles O24: a CMD write is an accept, which leaves the device alone. -/
theorem hostCommandsFrame : Obligations.HostCommandsFrame := by
  intro w s t h
  obtain ⟨start, hs, hexec, hop⟩ := exec_decodeHost w s
  cases hexec.symm.trans h
  have hinit : (Block.accept start s.blk).status.init = s.blk.status.init ∨
      ((Block.accept start s.blk).status.init = false ∧ w.extractLsb' 0 2 = 0b01#2) :=
    (Block.accept_init hs s.blk).imp_right fun ⟨hstart, _, hcleared⟩ => ⟨hcleared, hop hstart⟩
  obtain ⟨op, seq, pc, st, e, hlevel, hoe⟩ := Block.accept_frame hs s.blk
  rw [e] at hinit ⊢
  exact ⟨rfl, rfl, rfl, rfl, rfl, rfl, rfl, rfl, rfl, rfl, hlevel, hoe, hinit, rfl, rfl, fun _ => rfl⟩

/-! The controller does not look at the operand registers (R147). -/

/-- SEQ_PC moves, and the command completes, whatever the operand registers hold (R120, R121). -/
theorem State.advance_withOperands (s : State) (a v : Word) :
    ({ s with blk := s.blk.advance } : State).withOperands a v =
      { s.withOperands a v with blk := (s.withOperands a v).blk.advance } := by
  simp only [State.withOperands, Block.advance_eq]

theorem controllerStep_withOperands {s t : State} (a v : Word) (h : controllerStep s = .next t) :
    controllerStep (s.withOperands a v) = .next (t.withOperands a v) := by
  obtain ⟨ha, rfl⟩ | ⟨ha, rfl⟩ | ⟨l, ha, rfl⟩ | ⟨tx, cap, ha, hcs, hoe, hf, rfl⟩ | ⟨tx, cap, ha, hcs, hoe, hf, rfl⟩ |
    ⟨ha, hcs, rfl⟩ := controllerStep_cases h
  · exact controllerStep_idle ha
  · rw [State.advance_withOperands s.enableCs]
    exact controllerStep_oe (s := s.withOperands a v) ha
  · rw [State.advance_withOperands (s.setCs l)]
    exact controllerStep_cs (s := s.withOperands a v) ha
  · rw [State.advance_withOperands (s.exchange tx cap)]
    exact controllerStep_xfer (s := s.withOperands a v) ha hcs hoe hf
  · have hfault : (s.withOperands a v).exchangeFault tx = (s.exchangeFault tx).withOperands a v := by
      simp only [State.exchangeFault, State.abort_eq]
      rfl
    rw [← hfault]
    exact controllerStep_xfer_fault ha hcs hoe hf
  · rw [State.advance_withOperands { s with blk := Block.emit { s.blk with settleCnt := 0 } .settle }]
    exact controllerStep_settle (s := s.withOperands a v) ha hcs

/-- All a controller step can stop on: an action whose precondition does not hold (R115, R117; log 14). -/
theorem controllerStep_fault_cases {s : State} {f : Fault} (h : controllerStep s = .fault f) :
    (∃ tx cap, s.blk.nextAction = some (.xfer tx cap) ∧ (s.blk.status.csLevel = true ∨ s.blk.status.csOe = false) ∧
      f = .xferOutsideFrame) ∨
    (s.blk.nextAction = some .settle ∧ s.blk.status.csLevel = false ∧ f = .settleInsideFrame) := by
  cases ha : s.blk.nextAction with
  | none => cases (controllerStep_idle ha).symm.trans h
  | some act =>
    cases act with
    | oe => cases (controllerStep_oe ha).symm.trans h
    | cs l => cases (controllerStep_cs ha).symm.trans h
    | xfer tx cap =>
      by_cases hpad : s.blk.status.csLevel = true ∨ s.blk.status.csOe = false
      · cases (controllerStep_xfer_stuck ha hpad).symm.trans h
        exact .inl ⟨tx, cap, rfl, hpad, rfl⟩
      · obtain ⟨hcs, hoe⟩ : s.blk.status.csLevel = false ∧ s.blk.status.csOe = true := by simpa using hpad
        cases hf : s.faultsAt 0
        · cases (controllerStep_xfer ha hcs hoe hf).symm.trans h
        · cases (controllerStep_xfer_fault ha hcs hoe hf).symm.trans h
    | settle =>
      cases hcs : s.blk.status.csLevel
      · cases (controllerStep_settle_stuck ha hcs).symm.trans h
        exact .inr ⟨rfl, rfl, rfl⟩
      · cases (controllerStep_settle ha hcs).symm.trans h

/-- Settles O15: neither what an action does nor its precondition reads ADDR or WDATA. -/
theorem operandsLatchedAtAccept : Obligations.OperandsLatchedAtAccept := by
  refine fun s a v => ⟨fun t => controllerStep_withOperands a v, fun f h => ?_⟩
  obtain ⟨tx, cap, ha, hpad, rfl⟩ | ⟨ha, hcs, rfl⟩ := controllerStep_fault_cases h
  · exact controllerStep_xfer_stuck (s := s.withOperands a v) ha hpad
  · exact controllerStep_settle_stuck (s := s.withOperands a v) ha hcs

end Sys2Proof.Machine
end

section
/-! The opcodes of the wire (R160 to R168): which frames a decoder of wire traces accepts, and that the block's frames act at the device
as the frames of its pins. -/

namespace Sys2Proof.Machine

/-- Of the mode frames that `decodeFrame` reads, the decoder of wire traces keeps the one with the mode byte 0x00 (R95, I6, I7). -/
theorem decodeTraceFrame_wrmr_iff (mode : BitVec 2) (rsv : BitVec 6) (i : Instr) :
    decodeTraceFrame [0x01#8, mode ++ rsv] = .ok i ↔
      decodeFrame [0x01#8, mode ++ rsv] = .ok i ∧ (mode ++ rsv : BitVec 8) = 0x00#8 := by
  rw [modeByte_eq_zero, decodeTraceFrame, decodeFrame_wrmr]
  by_cases hr : rsv = 0#6
  · by_cases hm : mode = 0#2 <;> simp [hr, hm]
  · simp [hr]

/-- Settles O5: an accepted frame is the encoding of its instruction, whose constructor gives the opcode. -/
theorem traceDecoderRefusesUnusedOpcodes : Obligations.TraceDecoderRefusesUnusedOpcodes := by
  intro bytes i
  cases hd : decodeFrame bytes with
  | rejected e => simp [decodeTraceFrame, hd]
  | ok j =>
    have hbytes := encode_of_decodeFrame hd
    cases j with
    | rsvd | init | write | read => cases hbytes
    | wrmr mode rsv =>
      cases hbytes
      rw [decodeTraceFrame_wrmr_iff, hd]
      simp
    | wireWrite | wireRead | rdmr | edio | eqio | rstio =>
      cases hbytes
      simp [decodeTraceFrame, hd]

/-- The address bytes the block sends are those of the frame whose address is `zext_24(ADDR[16:0])` (R53, R118). -/
theorem addrBytes_eq_wireAddrBytes (a : Word) : addrBytes a = wireAddrBytes (BitVec.ofNat 24 a.toNat) := by
  simp only [addrBytes, wireAddrBytes, List.cons.injEq, and_true]
  refine ⟨?_, ?_, ?_⟩ <;> apply BitVec.eq_of_toNat_eq <;> simp [Nat.shiftRight_eq_div_pow] <;> omega

/-- A command that is one frame, run without a fault, acts at the device as its bytes driven at the pins (R84). -/
theorem exec_command_dev_eq_frame {i : Instr} {s : State} {op : CurOp} {xs : List (Byte × Bool)} (hcs : s.blk.csLine = true)
    (h : s.blk.status.clearErrors = Status.ready)
    (hexec : exec i s = .next (s.started op (frameProgram xs))) (hf : s.noFault xs.length) :
    ∃ s1 t, exec i s = .next s1 ∧ runController (xs.length + 2) s1 = .next t ∧ t.dev = (s.frame (xs.map Prod.fst)).dev := by
  obtain ⟨ser, hrun⟩ := runController_commanded (op := op) h hf
  exact ⟨_, _, hexec, hrun, (s.commanded_dev op xs ser _).trans (s.frame_dev _ hcs).symm⟩

/-- INIT acts at the device as the mode-set frame driven at the pins after the pulse (R143). -/
theorem State.initDone_dev_eq_frame {s : State} (hcs : s.blk.csLine = true) (ser : Serializer) :
    (s.initDone ser).dev = (State.frame { s with dev := s.dev.csFall.csRise } [0x01#8, 0x00#8]).dev :=
  (State.frame_dev { s with dev := s.dev.csFall.csRise } _ hcs).symm

/-- Settles O39: the bytes of the two frames agree, and so does what the device sees of them, whatever its state. -/
theorem blockFramesActAsWireFrames : Obligations.BlockFramesActAsWireFrames := by
  intro r s hinv hidle hf
  have hhigh := hinv.blk.csHigh hidle
  have hcs := Block.csLine_of_csLevel hhigh
  refine ⟨fun hinit ha hv => ?_, fun hinit ha => ?_, ?_⟩
  · obtain ⟨s1, t, hstart, hrun, hdev⟩ := exec_command_dev_eq_frame hcs (hinv.clearErrors_ready hidle hinit)
      (exec_write_accepted r hidle hinit ha hv) hf
    refine ⟨s1, t, _, hstart, hrun, rfl, ?_⟩
    rw [← addrBytes_eq_wireAddrBytes]
    exact hdev
  · obtain ⟨s1, t, hstart, hrun, hdev⟩ := exec_command_dev_eq_frame hcs (hinv.clearErrors_ready hidle hinit)
      (exec_read_accepted r hidle hinit ha) hf
    refine ⟨s1, t, _, hstart, hrun, rfl, ?_⟩
    rw [← addrBytes_eq_wireAddrBytes]
    exact hdev
  · obtain ⟨ser, hrun⟩ := runController_init hhigh fun k hk => hf k (by omega)
    exact ⟨_, _, _, exec_init_accepted r hidle, hrun, rfl, State.initDone_dev_eq_frame hcs ser⟩

end Sys2Proof.Machine
end

section
/-! The validation errors of WRITE and READ (R181): whoever sees one of their flags after the accept sees a refused command, whose next
state is known exactly. -/

namespace Sys2Proof.Machine

/-- One of the three validation errors stands in STATUS (R181). -/
def Status.invalid (st : Status) : Prop := st.errAddr = true ∨ st.errValue = true ∨ st.errNoinit = true

/-- A program starts with the error flags cleared (R140). -/
theorem State.started_not_invalid (s : State) (op : CurOp) (seq : List Action) : ¬ (s.started op seq).blk.status.invalid := by
  simp [Status.invalid, State.started]

/-- A WRITE that raises a validation error has failed a check (R144). -/
theorem exec_write_invalid {r : BitVec 30} {s t : State} (hidle : s.blk.status.busy = false) (hexec : exec (.write r) s = .next t)
    (hraised : t.blk.status.invalid) : s.blk.status.init = false ∨ 131071 < s.blk.addr.toNat ∨ 255 < s.blk.wdata.toNat := by
  by_contra hpass
  obtain ⟨hinit, ha, hv⟩ : s.blk.status.init = true ∧ s.blk.addr.toNat ≤ 131071 ∧ s.blk.wdata.toNat ≤ 255 := by
    simpa using hpass
  cases (exec_write_accepted r hidle hinit ha hv).symm.trans hexec
  exact s.started_not_invalid _ _ hraised

/-- A READ that raises a validation error has failed a check (R145). -/
theorem exec_read_invalid {r : BitVec 30} {s t : State} (hidle : s.blk.status.busy = false) (hexec : exec (.read r) s = .next t)
    (hraised : t.blk.status.invalid) : s.blk.status.init = false ∨ 131071 < s.blk.addr.toNat := by
  by_contra hpass
  obtain ⟨hinit, ha⟩ : s.blk.status.init = true ∧ s.blk.addr.toNat ≤ 131071 := by simpa using hpass
  cases (exec_read_accepted r hidle hinit ha).symm.trans hexec
  exact s.started_not_invalid _ _ hraised

/-- Settles O25: the command was refused, so its next state is that of O21 or O22. -/
theorem validationErrorsAreSilent : Obligations.ValidationErrorsAreSilent := by
  intro r i s t hi hidle hexec hraised
  rcases hi with rfl | rfl
  · have hrefused := writeRefusedByChecks r s hidle (exec_write_invalid hidle hexec hraised)
    cases hrefused.symm.trans hexec
    exact ⟨rfl, hidle, rfl, rfl, rfl, rfl, rfl, rfl, decide_eq_true_iff, by simp, by simp⟩
  · have hrefused := readRefusedByChecks r s hidle (exec_read_invalid hidle hexec hraised)
    cases hrefused.symm.trans hexec
    exact ⟨rfl, hidle, rfl, rfl, rfl, rfl, rfl, rfl, decide_eq_true_iff, by simp, by simp⟩

end Sys2Proof.Machine
end

section
/-! Reset (R210) with the device's CS line not low: the block alone is reset. -/

namespace Sys2Proof.Machine

/-- With CS not low no exchange is cut off: an exchange needs a low line (R115). -/
theorem State.cutExchange_of_csHigh {s : State} (bits : Nat) (h : s.blk.csLine = true) : s.cutExchange bits = s.dev := by
  unfold State.cutExchange
  split
  case h_1 => exact if_pos h
  all_goals rfl

/-- The undriven pad's line is high, so a device whose line is not low sees no edge of the reset. -/
theorem State.applyReset_dev_of_csHigh {s : State} (bits : Nat) (h : s.blk.csLine = true) :
    (s.applyReset bits).dev = s.dev :=
  calc (s.cutExchange bits).seeCs s.blk.csLine Block.reset.csLine
    _ = s.dev.seeCs s.blk.csLine Block.reset.csLine := by rw [State.cutExchange_of_csHigh bits h]
    _ = s.dev.seeCs true true := by rw [h]; rfl
    _ = s.dev := Device.seeCs_same s.dev true

/-- Settles O50: the block becomes `Block.reset`, whose fields are the reset values. -/
theorem resetValues : Obligations.ResetValues := by
  intro s bits rest hturns
  have hword : Status.reset.word = 0x00000100#32 := by decide
  exact ⟨_, step_of_turns_cons hturns, rfl, rfl, rfl, hword, rfl, rfl, rfl, rfl, rfl, rfl, rfl, rfl,
    State.applyReset_dev_of_csHigh bits⟩

end Sys2Proof.Machine
end
